-- ==== Sys2Proof/Word.lean ====
section
/-! DEFINITION. The widths of the machine: bytes, 32-bit registers and bus data, 64-bit PRNG states, seeds and binary64 patterns (00_scope.md R7). -/

namespace Sys2Proof

/-- A byte of BUF, PW or KS. -/
abbrev Byte := BitVec 8

/-- A register, a host-bus address or data word, a command word. -/
abbrev Word := BitVec 32

/-- A PRNG state, a seed, a time sample, a binary64 bit pattern. -/
abbrev DWord := BitVec 64

end Sys2Proof
end

