-- ==== Sys2Proof/Config.lean ====
section
/-! DEFINITION. What an implementation fixes (00_scope.md R8) and the free values the spec calls draws (93_implementation_defined.md U1 to U8, 92_eei_decisions.md D44). -/

namespace Sys2Proof

/-- The three sizes a model takes as arguments (00_scope.md R8, U9). They are data, so that every
statement can hold for all of them; their legal ranges are `Params.legal`. -/
structure Params where
  /-- BUF_SIZE, the bytes of the data buffer. -/
  bufSize : Nat
  /-- PW_MAX, the bytes of the password memory. -/
  pwMax : Nat
  /-- MAX_MATRIX, the bytes of the key-stream memory and the largest legal MATRIX_SIZE. -/
  maxMatrix : Nat
  deriving DecidableEq, Repr

/-- The reference values of 00_scope.md R8, used by every test vector of 95_test_vectors.md. -/
def Params.reference : Params := { bufSize := 65536, pwMax := 256, maxMatrix := 256 }

/-- U1: the byte a memory holds at a host address after the power-on reset of that number. -/
opaque Config.powerOnByte : Nat → Nat → Byte

/-- U2: what a host read of a memory window returns while the engine is busy (40_control.md R147);
a narrower access takes the low bytes. -/
opaque Config.busyRead : Nat → Word

/-- U3, U4, U5: an unspecified byte left by DECRYPT (45_engine.md R260) or by an aborted command
(70_reset_and_hazards.md R312 (c)). -/
opaque Config.freeByte : Nat → Byte

/-- U7: one sample of the `time` input port (10_state.md R52). -/
opaque Config.timePort : Nat → DWord

/-- U6, U8: how many transitions other than its completion happen while a command is in progress
(40_control.md R144, 60_exceptions.md R293): finite, otherwise free. -/
opaque Config.latency : Nat → Nat

end Sys2Proof
end

