-- ==== Sys2Proof/Syntax.lean ====
section
/-! DEFINITION. The fifteen commands of CRO-CMD version 1 (30_encoding.md R112), one constructor per row of the opcode table. A command word carries no operand (R111). -/

namespace Sys2Proof

/-- A command. -/
inductive Instr where
  /-- NOP, 40_control.md R148 -/
  | nop
  /-- PRNG_SEED, 41_prng.md R168 -/
  | prngSeed
  /-- PRNG_TSEED, 41_prng.md R169 -/
  | prngTseed
  /-- PRNG_U32, 41_prng.md R170 -/
  | prngU32
  /-- PRNG_U64, 41_prng.md R171 -/
  | prngU64
  /-- PRNG_F64, 41_prng.md R172 -/
  | prngF64
  /-- PRNG_RANGE, 41_prng.md R173 -/
  | prngRange
  /-- PRNG_BYTES, 41_prng.md R174 -/
  | prngBytes
  /-- KEYGEN, 42_keystream.md R191 -/
  | keygen
  /-- SHUFFLE, 43_permutation.md R207 -/
  | shuffle
  /-- UNSHUFFLE, 43_permutation.md R208 -/
  | unshuffle
  /-- MIX, 44_mixer.md R223 -/
  | mix
  /-- UNMIX, 44_mixer.md R224 -/
  | unmix
  /-- ENCRYPT, 45_engine.md R251 -/
  | encrypt
  /-- DECRYPT, 45_engine.md R260 -/
  | decrypt
  deriving DecidableEq, Repr

end Sys2Proof
end

