-- ==== Sys2Proof/WellFormed.lean ====
section
/-! DEFINITION. The checks on the model's inputs: commands, parameters and host accesses. -/

namespace Sys2Proof

/-- Every command is well formed: a command word carries no register number and no immediate, and
operand values are checked when the command runs, not before (30_encoding.md R111, 10_state.md R59). -/
def Instr.wellFormed : Instr → Bool
  | .nop => true
  | .prngSeed => true
  | .prngTseed => true
  | .prngU32 => true
  | .prngU64 => true
  | .prngF64 => true
  | .prngRange => true
  | .prngBytes => true
  | .keygen => true
  | .shuffle => true
  | .unshuffle => true
  | .mix => true
  | .unmix => true
  | .encrypt => true
  | .decrypt => true

/-- A command word has a legal form when its reserved bits 31:8 are zero (30_encoding.md R110). -/
def commandWordFormed (w : Word) : Bool := w.toNat < 256

/-- The legal ranges of the parameters (00_scope.md R8). -/
def Params.legal (p : Params) : Bool :=
  p.maxMatrix + 12 ≤ p.bufSize && p.bufSize ≤ 2 ^ 28 &&
  1 ≤ p.pwMax && p.pwMax ≤ 65536 &&
  32 ≤ p.maxMatrix && p.maxMatrix ≤ 4096

/-- The value of an `n`-byte host write fits in `n` bytes (20_memory.md R85). -/
def writeValueFits (n : Nat) (v : Word) : Bool := v.toNat < 2 ^ (8 * n)

end Sys2Proof
end

