-- ==== Sys2Proof/Decode.lean ====
section
/-! DEFINITION. Decoding and encoding of command words (30_encoding.md R110 to R115). -/

namespace Sys2Proof

/-- Why some bytes are no command of the table. The first two are the two causes of BAD_COMMAND
(30_encoding.md R113, R114). -/
inductive Reject where
  /-- the reserved field RSV, bits 31:8, is not zero (R113) -/
  | reservedBits
  /-- RSV is zero and OPC is not in the table (R114) -/
  | reservedOpcode
  /-- not exactly one 32-bit word (R110, R115); a host cannot write such a thing to CMD (20_memory.md R82) -/
  | notOneWord
  deriving DecidableEq, Repr

/-- OPC, bits 7:0 of a command word (R110). -/
def opcField (w : Word) : Byte := w.extractLsb' 0 8

/-- RSV, bits 31:8 of a command word (R110). -/
def rsvField (w : Word) : BitVec 24 := w.extractLsb' 8 24

/-- The opcode map (R112). -/
def opcodeMap : List (Byte × Instr) :=
  [(0x00, .nop), (0x01, .prngSeed), (0x02, .prngTseed), (0x03, .prngU32), (0x04, .prngU64),
   (0x05, .prngF64), (0x06, .prngRange), (0x07, .prngBytes), (0x10, .keygen),
   (0x20, .shuffle), (0x21, .unshuffle), (0x30, .mix), (0x31, .unmix),
   (0x40, .encrypt), (0x41, .decrypt)]

/-- The decoder of R115: every word is a command of the table or is rejected by name. -/
def decode (w : Word) : Except Reject Instr :=
  if rsvField w ≠ 0 then .error .reservedBits
  else match opcodeMap.lookup (opcField w) with
    | some i => .ok i
    | none => .error .reservedOpcode

/-- A command from its bytes, least significant first (20_memory.md R86). -/
def decodeBytes : List Byte → Except Reject Instr
  | [b0, b1, b2, b3] => decode (b3 ++ b2 ++ b1 ++ b0)
  | _ => .error .notOneWord

/-- The word's four bytes as the bus carries them, least significant first (20_memory.md R86). -/
def wordBytes (w : Word) : List Byte :=
  [w.extractLsb' 0 8, w.extractLsb' 8 8, w.extractLsb' 16 8, w.extractLsb' 24 8]

/-- The command word whose `nbits` low bits are those of `w`, the bits above zero. -/
def tableWord (nbits w : Nat) : Word := BitVec.ofNat 32 (w % 2 ^ nbits)

/-- What the decoder reads from a row's bits, laid out as the bus carries them. -/
def decodeTableWord (nbits w : Nat) : Option Instr := (decodeBytes (wordBytes (tableWord nbits w))).toOption

/-- The opcode of a command (R112). -/
def opcodeOf : Instr → Byte
  | .nop => 0x00
  | .prngSeed => 0x01
  | .prngTseed => 0x02
  | .prngU32 => 0x03
  | .prngU64 => 0x04
  | .prngF64 => 0x05
  | .prngRange => 0x06
  | .prngBytes => 0x07
  | .keygen => 0x10
  | .shuffle => 0x20
  | .unshuffle => 0x21
  | .mix => 0x30
  | .unmix => 0x31
  | .encrypt => 0x40
  | .decrypt => 0x41

/-- The command word of a command: OPC with RSV zero (R110). -/
def encode (i : Instr) : Word := (0 : BitVec 24) ++ opcodeOf i

end Sys2Proof
end

