-- ==== Sys2Proof/Machine/State.lean ====
section
/-! DEFINITION. The state of the block (10_state.md), the inputs and outputs of its host port, and the state right after power-on reset. -/

namespace Sys2Proof.Machine

/-- The operand registers (10_state.md R31, R40 to R48): the host writes them, commands read them. -/
structure Regs where
  matrixSize : Word
  pwLen : Word
  addr : Word
  len : Word
  step : Word
  seedLo : Word
  seedHi : Word
  tseedLo : Word
  tseedHi : Word
  lowLo : Word
  lowHi : Word
  highLo : Word
  highHi : Word
  deriving DecidableEq, Repr

/-- The operand registers after reset (10_state.md R64): MATRIX_SIZE is 32, the rest zero. -/
def Regs.reset : Regs :=
  { matrixSize := 32, pwLen := 0, addr := 0, len := 0, step := 0, seedLo := 0, seedHi := 0,
    tseedLo := 0, tseedHi := 0, lowLo := 0, lowHi := 0, highLo := 0, highHi := 0 }

/-- The snapshot `op` a command reads its register operands from (40_control.md R142). -/
structure Operands where
  regs : Regs
  /-- CTRL.TSRC at acceptance -/
  tsrc : Bool
  /-- the sample of the `time` port, where the command takes one; zero and unread elsewhere -/
  time : DWord
  deriving DecidableEq, Repr

/-- No command in progress: the hidden state of 10_state.md R57 is empty. -/
def Operands.idle : Operands :=
  { regs := { matrixSize := 0, pwLen := 0, addr := 0, len := 0, step := 0, seedLo := 0, seedHi := 0,
              tseedLo := 0, tseedHi := 0, lowLo := 0, lowHi := 0, highLo := 0, highHi := 0 },
    tsrc := false, time := 0 }

/-- The widths of a host access (20_memory.md R84, R85). -/
inductive AccessSize where
  | byte
  | half
  | word
  deriving DecidableEq, Repr

/-- What can arrive at the block from outside. -/
inductive HostEvent where
  /-- MemRead(addr, n), 20_memory.md R84 -/
  | read (addr : Word) (n : AccessSize)
  /-- MemWrite(addr, n, v), 20_memory.md R85 -/
  | write (addr : Word) (n : AccessSize) (v : Word)
  /-- power-on reset, 70_reset_and_hazards.md R310 (a) -/
  | powerOn
  deriving DecidableEq, Repr

/-- Why an access stops. -/
inductive Fault where
  /-- the bus error of 20_memory.md R90, raised by `memRead` and `memWrite` for an illegal width, alignment
  or address: a fault of the host agent, handed to it as the response of the access. The block's state is
  unchanged, as R90 says, and the block goes on, so this is safe. -/
  | busError (addr : Word) (n : AccessSize)
  deriving DecidableEq, Repr

/-- Why an instruction has no meaning. -/
inductive Refusal where
  /-- raised by `exec`'s arm of a command that has no meaning yet; no arm does. Safe: the model stops. -/
  | notModelled (mnemonic : String)
  deriving DecidableEq, Repr

/-- What the block drives on the host bus after an access. -/
inductive BusResponse where
  /-- no access has been made since power-on -/
  | idle
  /-- a read returned this value, zero-extended to the bus width -/
  | data (v : Word)
  /-- a write was taken (also one the block ignored) -/
  | done
  /-- the access was illegal: the host sees the error response (20_memory.md R90) -/
  | error (f : Fault)
  deriving DecidableEq, Repr

/-- A byte memory: the bytes written since power-on, by rising index. An index that is not listed
holds an unspecified byte (10_state.md R63). -/
abbrev Memory := List Host.Cell

/-- The state of the block and of its host port. -/
structure State where
  /-- BUF_SIZE, PW_MAX, MAX_MATRIX: fixed for a whole run (00_scope.md R8) -/
  cfg : Params
  /-- CTRL.IE (10_state.md R38) -/
  ie : Bool
  /-- CTRL.TSRC (10_state.md R38) -/
  tsrc : Bool
  /-- STATUS.BUSY (10_state.md R39) -/
  busy : Bool
  /-- STATUS.DONE (10_state.md R39) -/
  done : Bool
  /-- STATUS.WIGN (10_state.md R39) -/
  wign : Bool
  /-- STATUS.ERR (10_state.md R39) -/
  err : Byte
  /-- CMD, the last accepted command word (10_state.md R49) -/
  cmd : Word
  /-- the operand registers -/
  regs : Regs
  /-- STATE, the architectural PRNG (10_state.md R50) -/
  prng : DWord
  /-- RES (10_state.md R51) -/
  res : DWord
  /-- OUT_LEN (10_state.md R53) -/
  outLen : Word
  /-- BUF (10_state.md R60) -/
  buf : Memory
  /-- PW (10_state.md R61) -/
  pw : Memory
  /-- KS (10_state.md R62) -/
  ks : Memory
  /-- hidden: the sampled operands of the command in progress (10_state.md R57 (d)) -/
  op : Operands
  /-- hidden: transitions left before the command in progress completes (10_state.md R57 (d), 40_control.md R144) -/
  left : Nat
  /-- the model's own: host events not yet performed, oldest first -/
  inbox : List HostEvent
  /-- the model's own: the response of the last host access -/
  bus : BusResponse
  /-- the model's own: how many free values have been drawn -/
  draws : Nat
  /-- the model's own: which power-on reset the unwritten bytes date from -/
  epoch : Nat
  deriving DecidableEq, Repr

/-- The block with parameters `p` after power-on reset (10_state.md R64, 70_reset_and_hazards.md R311, R312 (a)). -/
def State.resetOf (p : Params) : State :=
  { cfg := p, ie := false, tsrc := false, busy := false, done := false, wign := false, err := 0, cmd := 0,
    regs := Regs.reset, prng := 0, res := 0, outLen := 0, buf := [], pw := [], ks := [],
    op := Operands.idle, left := 0, inbox := [], bus := .idle, draws := 0, epoch := 0 }

/-- The machine right after reset, with the reference parameters of 00_scope.md R8. -/
def State.reset : State := State.resetOf Params.reference

end Sys2Proof.Machine
end

