-- ==== Sys2Proof/Machine/Flags.lean ====
section
/-! DEFINITION. The flags: the CTRL and STATUS words, their write rules, the error codes and the interrupt output (10_state.md R38, R39, R56, R58; 60_exceptions.md R281, R289). -/

namespace Sys2Proof.Machine

/-- The completion codes a command may produce (60_exceptions.md R281). The reserved codes 0x03 and 0x04
are not among them: no command raises them (R283). -/
inductive ErrCode where
  | ok
  | payloadTooLarge
  | invalidTokenLength
  | badCommand
  | range
  | badStep
  deriving DecidableEq, Repr

/-- The numeric value of a completion code (60_exceptions.md R281). -/
def ErrCode.toByte : ErrCode → Byte
  | .ok => 0x00
  | .payloadTooLarge => 0x01
  | .invalidTokenLength => 0x02
  | .badCommand => 0x10
  | .range => 0x11
  | .badStep => 0x12

/-- The values STATUS.ERR may hold (60_exceptions.md R281: every other value is never written). -/
def isErrCode (b : Byte) : Bool :=
  b = 0x00 || b = 0x01 || b = 0x02 || b = 0x10 || b = 0x11 || b = 0x12

/-- A flag as a number. -/
def bit (b : Bool) : Nat := if b then 1 else 0

/-- What a read of CTRL returns: IE in bit 0, TSRC in bit 1, SRST and the reserved bits 0 (10_state.md R38). -/
def State.ctrlWord (s : State) : Word := BitVec.ofNat 32 (bit s.ie + 2 * bit s.tsrc)

/-- What a read of STATUS returns: BUSY, DONE, WIGN in bits 0 to 2, ERR in bits 15:8, the rest 0 (10_state.md R39). -/
def State.statusWord (s : State) : Word :=
  BitVec.ofNat 32 (bit s.busy + 2 * bit s.done + 4 * bit s.wign + 256 * s.err.toNat)

/-- A host write to STATUS: a 1 in bit 1 or 2 clears DONE or WIGN, everything else is ignored (10_state.md R39). -/
def State.writeStatus (s : State) (v : Word) : State :=
  { s with done := s.done && !v.getLsbD 1, wign := s.wign && !v.getLsbD 2 }

/-- A write was ignored: the sticky STATUS.WIGN is set (10_state.md R39, R56). -/
def State.setWign (s : State) : State := { s with wign := true }

/-- The interrupt output, a level (10_state.md R58, 60_exceptions.md R289). -/
def State.irq (s : State) : Bool := s.ie && s.done

end Sys2Proof.Machine
end

