-- ==== Sys2Proof/Machine/Ops.lean ====
section
/-! DEFINITION. The shared operations: byte memories, the byte orders of the data formats, free bytes, completion of a command and raising an error. -/

namespace Sys2Proof.Machine

/-! ### Byte memories -/

/-- The canonical form: indices strictly rise. An unlisted index holds no written byte, so no entry can
equal what an unlisted index holds. -/
abbrev Memory.wf (m : Memory) : Prop := List.Pairwise (fun c d : Host.Cell => c.1 < d.1) m

/-- The byte last written at an index since power-on, if any. -/
def Memory.get? : Memory → Nat → Option Byte
  | [], _ => none
  | (k, b) :: m, a => if k = a then some b else Memory.get? m a

/-- Consecutive cells from an index on. -/
def cellsFrom : Nat → List Byte → Memory
  | _, [] => []
  | a, b :: bs => (a, b) :: cellsFrom (a + 1) bs

/-- The memory with `bs` written at indices `a`, `a + 1`, …. -/
def Memory.store (m : Memory) (a : Nat) (bs : List Byte) : Memory :=
  m.filter (fun c => c.1 < a) ++ cellsFrom a bs ++ m.filter (fun c => a + bs.length ≤ c.1)

/-- The three memories (10_state.md R60, R61, R62). -/
inductive MemId where
  | buf
  | pw
  | ks
  deriving DecidableEq, Repr

/-- The host address of a memory's byte 0 (20_memory.md R81). -/
def MemId.base : MemId → Nat
  | .ks => 0x00001000
  | .pw => 0x00010000
  | .buf => 0x10000000

/-- The bytes a memory has (00_scope.md R8, 20_memory.md R81). -/
def MemId.size (p : Params) : MemId → Nat
  | .buf => p.bufSize
  | .pw => p.pwMax
  | .ks => p.maxMatrix

/-- One of the three memories. -/
def State.mem (s : State) : MemId → Memory
  | .buf => s.buf
  | .pw => s.pw
  | .ks => s.ks

/-- The state with one of the three memories replaced. -/
def State.setMem (s : State) (id : MemId) (m : Memory) : State :=
  match id with
  | .buf => { s with buf := m }
  | .pw => { s with pw := m }
  | .ks => { s with ks := m }

/-- What a byte that nothing has written since power-on reads as: a free value per byte and per power-on
reset (10_state.md R63, 93_implementation_defined.md U1). -/
def unwrittenByte (epoch : Nat) (id : MemId) (a : Nat) : Byte := Config.powerOnByte epoch (id.base + a)

/-- The byte a memory holds at an index (00_scope.md R13: BUF[a], PW[a], KS[a]). -/
def State.byte (s : State) (id : MemId) (a : Nat) : Byte :=
  ((s.mem id).get? a).getD (unwrittenByte s.epoch id a)

/-- The `n` bytes of a memory from index `a` on. -/
def State.bytes (s : State) (id : MemId) (a n : Nat) : List Byte :=
  (List.range n).map (fun k => s.byte id (a + k))

/-- Bytes written into a memory from index `a` on. -/
def State.store (s : State) (id : MemId) (a : Nat) (bs : List Byte) : State :=
  s.setMem id ((s.mem id).store a bs)

/-- The next `n` free bytes. -/
def State.freeBytes (s : State) (n : Nat) : List Byte :=
  (List.range n).map (fun k => Config.freeByte (s.draws + k))

/-- `n` bytes of a memory from index `a` on become unspecified, one draw per byte
(93_implementation_defined.md U3, U4, U5). -/
def State.scramble (s : State) (id : MemId) (a n : Nat) : State :=
  { s.store id a (s.freeBytes n) with draws := s.draws + n }

/-! ### Byte orders (00_scope.md R12, 20_memory.md R89) -/

/-- The low `n` bytes of a number, least significant first. -/
def leBytes : Nat → Nat → List Byte
  | 0, _ => []
  | n + 1, v => BitVec.ofNat 8 v :: leBytes n (v / 256)

/-- The low `n` bytes of a number, most significant first. -/
def beBytes (n v : Nat) : List Byte := (leBytes n v).reverse

/-- The integer whose bytes, least significant first, are given. -/
def fromLe : List Byte → Nat
  | [] => 0
  | b :: bs => b.toNat + 256 * fromLe bs

/-- The integer whose bytes, most significant first, are given. -/
def fromBe (bs : List Byte) : Nat := fromLe bs.reverse

/-- The exact sum of the bytes of a sequence (45_engine.md, notation). -/
def byteSum : List Byte → Nat
  | [] => 0
  | b :: bs => b.toNat + byteSum bs

/-! ### Completion and errors -/

/-- Completion (40_control.md R145): ERR gets the code, BUSY falls, DONE rises; the hidden state of the
command is gone (10_state.md R57). -/
def State.complete (s : State) (code : ErrCode) : State :=
  { s with err := code.toByte, busy := false, done := true, op := Operands.idle, left := 0 }

/-- A command ends with an error (60_exceptions.md R280, R285): it completes with the code and has no
other effect. Nothing is saved and there is no return (R291, R292). -/
def State.raise (s : State) (e : ErrCode) : State := s.complete e

/-- An error of ENCRYPT or DECRYPT also clears OUT_LEN (60_exceptions.md R285). -/
def State.raiseFramed (s : State) (e : ErrCode) : State := { s with outLen := 0 }.raise e

end Sys2Proof.Machine
end

