-- ==== Sys2Proof/Machine/Operands.lean ====
section
/-! DEFINITION. The operands of commands: the 64-bit pairs, the snapshot taken at acceptance, and the operand checks (30_encoding.md R111, 40_control.md R142, 60_exceptions.md R286). -/

namespace Sys2Proof.Machine

/-- SEED = {SEED_HI, SEED_LO} (10_state.md R45). -/
def Regs.seed (r : Regs) : DWord := r.seedHi ++ r.seedLo

/-- TSEED = {TSEED_HI, TSEED_LO} (10_state.md R46). -/
def Regs.tseed (r : Regs) : DWord := r.tseedHi ++ r.tseedLo

/-- LOW = {LOW_HI, LOW_LO} (10_state.md R47). -/
def Regs.low (r : Regs) : DWord := r.lowHi ++ r.lowLo

/-- HIGH = {HIGH_HI, HIGH_LO} (10_state.md R48). -/
def Regs.high (r : Regs) : DWord := r.highHi ++ r.highLo

/-- The time-seed value TS of a command (10_state.md R52). -/
def Operands.timeSeed (op : Operands) : DWord := if op.tsrc then op.regs.tseed else op.time

/-- The commands that read the time seed (10_state.md R52, 40_control.md R142). -/
def usesTimeSeed : Instr → Bool
  | .nop => false
  | .prngSeed => false
  | .prngTseed => true
  | .prngU32 => false
  | .prngU64 => false
  | .prngF64 => false
  | .prngRange => false
  | .prngBytes => false
  | .keygen => false
  | .shuffle => false
  | .unshuffle => false
  | .mix => false
  | .unmix => false
  | .encrypt => true
  | .decrypt => false

/-- The `time` port is sampled at the acceptance of PRNG_TSEED or ENCRYPT with CTRL.TSRC = 0 (40_control.md R142). -/
def samplesTime (w : Word) (tsrc : Bool) : Bool :=
  match decode w with
  | .ok i => usesTimeSeed i && !tsrc
  | .error _ => false

/-- The snapshot taken when the word `w` is accepted (40_control.md R142). -/
def State.sampleOperands (s : State) (w : Word) : Operands :=
  { regs := s.regs, tsrc := s.tsrc, time := if samplesTime w s.tsrc then Config.timePort s.draws else 0 }

/-- The region BUF[ADDR .. ADDR+LEN) fits in BUF, the sum exact (60_exceptions.md R286 (c)). -/
def regionFits (p : Params) (r : Regs) : Bool := r.addr.toNat + r.len.toNat ≤ p.bufSize

/-- The password PW[0 .. PW_LEN) fits in PW (60_exceptions.md R286 (b)). -/
def passwordFits (p : Params) (r : Regs) : Bool := r.pwLen.toNat ≤ p.pwMax

/-- The bytes of the region BUF[ADDR .. ADDR+LEN) of the command in progress (10_state.md R42, R43). -/
def State.region (s : State) : List Byte := s.bytes .buf s.op.regs.addr.toNat s.op.regs.len.toNat

/-- The password of the command in progress (10_state.md R41, R61). -/
def State.password (s : State) : List Byte := s.bytes .pw 0 s.op.regs.pwLen.toNat

/-- The matrix size M of the command in progress. -/
def State.msize (s : State) : Nat := s.op.regs.matrixSize.toNat

/-- The key KS[0 .. M) of MIX and UNMIX (44_mixer.md, section 2). -/
def State.mixKey (s : State) : List Byte := s.bytes .ks 0 s.msize

end Sys2Proof.Machine
end

