-- ==== Sys2Proof/Machine/Control.lean ====
section
/-! DEFINITION. The command lifecycle (40_control.md): acceptance, the due command, BAD_COMMAND, and NOP. -/

namespace Sys2Proof.Machine

/-- Acceptance of the word `w` (40_control.md R142, R143), with the number of transitions that will happen
before the command completes. One draw is used up. -/
def State.accept (s : State) (w : Word) (latency : Nat) : State :=
  { s with cmd := w, busy := true, done := false, err := 0, op := s.sampleOperands w, left := latency,
           draws := s.draws + 1 }

/-- The command word whose completion is the next transition, if one is due (40_control.md R144). -/
def fetch (s : State) : Option Word := if s.busy && s.left == 0 then some s.cmd else none

/-- A transition other than the completion of the command in progress has begun: one less is left, and the
host events after this transition's are `rest` (40_control.md R144). -/
def State.tick (s : State) (rest : List HostEvent) : State := { s with left := s.left - 1, inbox := rest }

/-- A word that is no command completes with BAD_COMMAND and no other effect (30_encoding.md R113, R114). -/
def badCommand (s : State) : Host.Outcome State Fault Refusal := .next (s.raise .badCommand)

/-- NOP (40_control.md R148). -/
def execNop (s : State) : Host.Outcome State Fault Refusal := .next (s.complete .ok)

end Sys2Proof.Machine
end

