-- ==== Sys2Proof/Machine/Keystream.lean ====
section
/-! DEFINITION. The key-stream function and KEYGEN (42_keystream.md). -/

namespace Sys2Proof.Machine

/-- The key-stream of `m` bytes: zeros for the empty password, else the password repeated (42_keystream.md R190). -/
def keystream (m : Nat) (p : List Byte) : List Byte :=
  if p.length = 0 then List.replicate m 0
  else (List.range m).map (fun k => p.getD (k % p.length) 0)

/-- KEYGEN (42_keystream.md R191). -/
def execKeygen (s : State) : Host.Outcome State Fault Refusal :=
  .next (
    if passwordFits s.cfg s.op.regs then
      (s.store .ks 0 (keystream s.msize s.password)).complete .ok
    else s.raise .range)

end Sys2Proof.Machine
end

