-- ==== Sys2Proof/Machine/Mixer.lean ====
section
/-! DEFINITION. The block mixer, MIX and UNMIX (44_mixer.md). -/

namespace Sys2Proof.Machine

/-- The byte-wise XOR of two sequences. -/
def xorBytes (x y : List Byte) : List Byte := List.zipWith (fun a b => a ^^^ b) x y

/-- The consecutive blocks of `bs` bytes of a buffer (44_mixer.md, notation). -/
def blocks (bs : Nat) (b : List Byte) : List (List Byte) :=
  (List.range (b.length / bs)).map (fun k => (b.drop (k * bs)).take bs)

/-- Each block XORed with the mixed block before it (44_mixer.md R220). -/
def mixBlocks : List Byte → List (List Byte) → List (List Byte)
  | _, [] => []
  | prev, b :: bs => xorBytes b prev :: mixBlocks (xorBytes b prev) bs

/-- Each block XORed with the block before it as it stood in the input (44_mixer.md R221). -/
def unmixBlocks : List Byte → List (List Byte) → List (List Byte)
  | _, [] => []
  | prev, b :: bs => xorBytes b prev :: unmixBlocks b bs

/-- Mix (44_mixer.md R220). -/
def mix (bs : Nat) (b key : List Byte) : List Byte := (mixBlocks key (blocks bs b)).flatten

/-- Unmix (44_mixer.md R221). -/
def unmix (bs : Nat) (b key : List Byte) : List Byte := (unmixBlocks key (blocks bs b)).flatten

/-- MIX and UNMIX: the checks, then the region replaced (44_mixer.md R223, R224). -/
def mixRegion (f : Nat → List Byte → List Byte → List Byte) (s : State) : State :=
  if regionFits s.cfg s.op.regs then
    if s.op.regs.len.toNat % s.msize = 0 then
      (s.store .buf s.op.regs.addr.toNat (f s.msize s.region s.mixKey)).complete .ok
    else s.raise .invalidTokenLength
  else s.raise .range

/-- MIX (44_mixer.md R223). -/
def execMix (s : State) : Host.Outcome State Fault Refusal := .next (mixRegion mix s)

/-- UNMIX (44_mixer.md R224). -/
def execUnmix (s : State) : Host.Outcome State Fault Refusal := .next (mixRegion unmix s)

end Sys2Proof.Machine
end

