-- ==== Sys2Proof/Machine/Binary64.lean ====
section
/-! DEFINITION. IEEE 754 binary64 on bit patterns (00_scope.md R14): division, multiplication, addition and subtraction, rounded to nearest, ties to even, with gradual underflow. Every finite binary64 value is a whole number of units of 2^-1074, so that exact arithmetic is arithmetic on naturals. -/

namespace Sys2Proof.Machine

/-- What a bit pattern stands for: `fin neg m k` is `m * 2^k` units of 2^-1074, negated if `neg`. -/
inductive F64View where
  | nan
  | inf (neg : Bool)
  | fin (neg : Bool) (m k : Nat)
  deriving DecidableEq, Repr

/-- Sign bit 63, exponent bits 62:52, fraction bits 51:0 (00_scope.md R14, bits64). -/
def f64View (x : DWord) : F64View :=
  let neg := x.getLsbD 63
  let e := (x.extractLsb' 52 11).toNat
  let f := (x.extractLsb' 0 52).toNat
  if e = 2047 then (if f = 0 then .inf neg else .nan)
  else if e = 0 then .fin neg f 0
  else .fin neg (2 ^ 52 + f) (e - 1)

/-- The canonical quiet NaN (41_prng.md R173). -/
def canonicalNaN : DWord := 0x7FF8000000000000

def f64IsNaN (x : DWord) : Bool := f64View x = .nan

/-- The pattern with the given sign and the given bits 62:0. -/
def f64Pack (neg : Bool) (mag : Nat) : DWord := BitVec.ofNat 64 (mag + if neg then 2 ^ 63 else 0)

def f64Zero (neg : Bool) : DWord := f64Pack neg 0

def f64Inf (neg : Bool) : DWord := f64Pack neg (2047 * 2 ^ 52)

/-- Round the quotient `n / d` to an integer, to nearest, ties to even. -/
def roundHalfEven (n d : Nat) : Nat :=
  let q := n / d
  let r := n % d
  if 2 * r < d then q else if d < 2 * r then q + 1 else q + q % 2

/-- Bits 62:0 of the binary64 value nearest to `num / den` units of 2^-1074, ties to even. `k` is the
exponent of the last place: at least 0 (gradual underflow), else such that the quotient has 53 bits.
A significand that rounds up to 2^53 carries into the exponent by itself. -/
def f64Magnitude (num den : Nat) : Nat :=
  let k := (num / den).log2 - 52
  min (k * 2 ^ 52 + roundHalfEven num (den * 2 ^ k)) (2047 * 2 ^ 52)

/-- The correctly rounded binary64 value of `num / den` units with the given sign; past the largest finite
value it is an infinity. -/
def f64Round (neg : Bool) (num den : Nat) : DWord := f64Pack neg (f64Magnitude num den)

/-- f64(n): the binary64 value of an integer (00_scope.md R14). -/
def f64OfNat (n : Nat) : DWord := f64Round false (n * 2 ^ 1074) 1

/-- fmul of 00_scope.md R14. -/
def fmul (a b : DWord) : DWord :=
  match f64View a, f64View b with
  | .nan, _ => canonicalNaN
  | _, .nan => canonicalNaN
  | .inf s, .inf t => f64Inf (s ^^ t)
  | .inf s, .fin t m _ => if m = 0 then canonicalNaN else f64Inf (s ^^ t)
  | .fin s m _, .inf t => if m = 0 then canonicalNaN else f64Inf (s ^^ t)
  | .fin s m k, .fin t n l => f64Round (s ^^ t) (m * n * 2 ^ (k + l)) (2 ^ 1074)

/-- fdiv of 00_scope.md R14. -/
def fdiv (a b : DWord) : DWord :=
  match f64View a, f64View b with
  | .nan, _ => canonicalNaN
  | _, .nan => canonicalNaN
  | .inf _, .inf _ => canonicalNaN
  | .inf s, .fin t _ _ => f64Inf (s ^^ t)
  | .fin s _ _, .inf t => f64Zero (s ^^ t)
  | .fin s m k, .fin t n l =>
    if n = 0 then (if m = 0 then canonicalNaN else f64Inf (s ^^ t))
    else f64Round (s ^^ t) (m * 2 ^ (k + 1074)) (n * 2 ^ l)

/-- The signed number of units of a finite value. -/
def f64Units (neg : Bool) (m k : Nat) : Int := if neg then -((m * 2 ^ k : Nat) : Int) else ((m * 2 ^ k : Nat) : Int)

/-- fadd of 00_scope.md R14. An exact zero sum is +0 unless both operands are negative. -/
def fadd (a b : DWord) : DWord :=
  match f64View a, f64View b with
  | .nan, _ => canonicalNaN
  | _, .nan => canonicalNaN
  | .inf s, .inf t => if s = t then f64Inf s else canonicalNaN
  | .inf s, .fin _ _ _ => f64Inf s
  | .fin _ _ _, .inf t => f64Inf t
  | .fin s m k, .fin t n l =>
    let z := f64Units s m k + f64Units t n l
    if z = 0 then f64Zero (s && t) else f64Round (decide (z < 0)) z.natAbs 1

/-- The pattern with the sign bit flipped. -/
def f64Neg (x : DWord) : DWord := x ^^^ 0x8000000000000000

/-- fsub of 00_scope.md R14: the sum with the negated subtrahend. -/
def fsub (a b : DWord) : DWord := fadd a (f64Neg b)

/-- floor(x) of a finite non-negative value (00_scope.md R14); the draws of 43_permutation.md R200 are
never anything else, and 0 stands for the rest. -/
def f64Floor (x : DWord) : Nat :=
  match f64View x with
  | .fin false m k => m * 2 ^ k / 2 ^ 1074
  | _ => 0

end Sys2Proof.Machine
end

