-- ==== Sys2Proof/Machine/Prng.lean ====
section
/-! DEFINITION. The PRNG functions and the seven commands on the architectural PRNG (41_prng.md). -/

namespace Sys2Proof.Machine

/-- The LCG multiplier A (00_scope.md R10). -/
def lcgMultiplier : DWord := 6364136223846793005

/-- The LCG increment C (00_scope.md R10). -/
def lcgIncrement : DWord := 1442695040888963407

/-- LCG step, modulo 2^64 (41_prng.md R160). -/
def lcg (s : DWord) : DWord := s * lcgMultiplier + lcgIncrement

/-- next_u32: the high half of the updated state (41_prng.md R161). -/
def nextU32 (s : DWord) : Word × DWord := ((lcg s).extractLsb' 32 32, lcg s)

/-- next_u64: two draws, high half first (41_prng.md R162). -/
def nextU64 (s : DWord) : DWord × DWord :=
  let (u1, s1) := nextU32 s
  let (u2, s2) := nextU32 s1
  (u1 ++ u2, s2)

/-- u32::MAX (00_scope.md R10). -/
def u32Max : Nat := 4294967295

/-- next_f64: one draw divided by u32::MAX (41_prng.md R163). -/
def nextF64 (s : DWord) : DWord × DWord :=
  let (u, s1) := nextU32 s
  (fdiv (f64OfNat u.toNat) (f64OfNat u32Max), s1)

/-- gen_range: low + (high - low) * next_f64(), each operation rounded (41_prng.md R164). -/
def genRange (s low high : DWord) : DWord × DWord :=
  let (f, s1) := nextF64 s
  (fadd low (fmul (fsub high low) f), s1)

/-- The bytes of `d` successive draws, each little-endian, and the state after them. -/
def drawBytes : Nat → DWord → List Byte × DWord
  | 0, s => ([], s)
  | d + 1, s =>
    let (u, s1) := nextU32 s
    let (bs, s2) := drawBytes d s1
    (leBytes 4 u.toNat ++ bs, s2)

/-- get_random_bytes: ceil(n / 4) draws, the last one truncated (41_prng.md R165). -/
def getRandomBytes (s : DWord) (n : Nat) : List Byte × DWord :=
  let (bs, s1) := drawBytes ((n + 3) / 4) s
  (bs.take n, s1)

/-- new(seed): the state is the seed itself (41_prng.md R166). -/
def prngNew (seed : DWord) : DWord := seed

/-- PRNG_SEED (41_prng.md R168). -/
def execPrngSeed (s : State) : Host.Outcome State Fault Refusal :=
  .next ({ s with prng := prngNew s.op.regs.seed }.complete .ok)

/-- PRNG_TSEED (41_prng.md R169). -/
def execPrngTseed (s : State) : Host.Outcome State Fault Refusal :=
  .next ({ s with prng := prngNew s.op.timeSeed }.complete .ok)

/-- A command that draws a result: STATE and RES are written (10_state.md R50, R51). -/
def State.drawResult (s : State) (r prng' : DWord) : State := { s with prng := prng', res := r }.complete .ok

/-- PRNG_U32: RES is the draw, zero-extended (41_prng.md R170). -/
def execPrngU32 (s : State) : Host.Outcome State Fault Refusal :=
  let (u, s1) := nextU32 s.prng
  .next (s.drawResult (u.setWidth 64) s1)

/-- PRNG_U64 (41_prng.md R171). -/
def execPrngU64 (s : State) : Host.Outcome State Fault Refusal :=
  let (v, s2) := nextU64 s.prng
  .next (s.drawResult v s2)

/-- PRNG_F64 (41_prng.md R172). -/
def execPrngF64 (s : State) : Host.Outcome State Fault Refusal :=
  let (f, s1) := nextF64 s.prng
  .next (s.drawResult f s1)

/-- PRNG_RANGE: a NaN result is the canonical one (41_prng.md R173). -/
def execPrngRange (s : State) : Host.Outcome State Fault Refusal :=
  let (r, s1) := genRange s.prng s.op.regs.low s.op.regs.high
  .next (s.drawResult (if f64IsNaN r then canonicalNaN else r) s1)

/-- PRNG_BYTES (41_prng.md R174). -/
def execPrngBytes (s : State) : Host.Outcome State Fault Refusal :=
  .next (
    if regionFits s.cfg s.op.regs then
      let (bs, s1) := getRandomBytes s.prng s.op.regs.len.toNat
      { s.store .buf s.op.regs.addr.toNat bs with prng := s1 }.complete .ok
    else s.raise .range)

end Sys2Proof.Machine
end

