-- ==== Sys2Proof/Machine/Permutation.lean ====
section
/-! DEFINITION. The seeded permutation, SHUFFLE and UNSHUFFLE (43_permutation.md). -/

namespace Sys2Proof.Machine

/-- The swap-index draw for a pivot `i` (43_permutation.md R200), in binary64 as R206 demands. -/
def drawIndex (s : DWord) (i : Nat) : Nat × DWord :=
  let (x, s1) := genRange s (f64Zero false) (f64OfNat i)
  (f64Floor x, s1)

/-- The pivots n-1, n-1-step, … down to at least 1; there are ceil((n-1)/step) of them (43_permutation.md R201). -/
def pivots (n step : Nat) : List Nat :=
  (List.range ((n - 1 + (step - 1)) / step)).map (fun k => n - 1 - k * step)

/-- The pairs drawn for the given pivots, in order, from a PRNG state (43_permutation.md R202). -/
def swapsFrom : DWord → List Nat → List (Nat × Nat)
  | _, [] => []
  | s, i :: is =>
    let (j, s1) := drawIndex s i
    (i, j) :: swapsFrom s1 is

/-- The swap list of `n` bytes with `(seed, step)` (43_permutation.md R202). -/
def swaps (seed : DWord) (step n : Nat) : List (Nat × Nat) := swapsFrom (prngNew seed) (pivots n step)

/-- Exchange two bytes of a sequence. A pair outside the sequence, which no swap list holds
(43_permutation.md R200, R201), exchanges nothing. -/
def swapAt (d : List Byte) (i j : Nat) : List Byte :=
  match d[i]?, d[j]? with
  | some x, some y => (d.set i y).set j x
  | _, _ => d

/-- Exchange the pairs of a list, first to last. -/
def applySwaps (l : List (Nat × Nat)) (d : List Byte) : List Byte := l.foldl (fun e p => swapAt e p.1 p.2) d

/-- Shuffle of a byte sequence (43_permutation.md R203). -/
def shuffle (d : List Byte) (seed : DWord) (step : Nat) : List Byte := applySwaps (swaps seed step d.length) d

/-- Unshuffle of a byte sequence: the same swaps, last to first (43_permutation.md R204). -/
def unshuffle (d : List Byte) (seed : DWord) (step : Nat) : List Byte :=
  applySwaps (swaps seed step d.length).reverse d

/-- SHUFFLE and UNSHUFFLE: the checks, then the region replaced by its permutation (43_permutation.md R207, R208). -/
def permuteRegion (perm : List Byte → DWord → Nat → List Byte) (s : State) : State :=
  if regionFits s.cfg s.op.regs then
    if s.op.regs.step = 0 then s.raise .badStep
    else (s.store .buf s.op.regs.addr.toNat (perm s.region s.op.regs.seed s.op.regs.step.toNat)).complete .ok
  else s.raise .range

/-- SHUFFLE (43_permutation.md R207). -/
def execShuffle (s : State) : Host.Outcome State Fault Refusal := .next (permuteRegion shuffle s)

/-- UNSHUFFLE (43_permutation.md R208). -/
def execUnshuffle (s : State) : Host.Outcome State Fault Refusal := .next (permuteRegion unshuffle s)

end Sys2Proof.Machine
end

