-- ==== Sys2Proof/Machine/Engine.lean ====
section
/-! DEFINITION. Framing: ENCRYPT and DECRYPT (45_engine.md). -/

namespace Sys2Proof.Machine

/-- Padding length (45_engine.md R241). -/
def padLen (m l : Nat) : Nat := (m - (10 + l) % m) % m

/-- Token length (45_engine.md R240, R251). -/
def tokenLen (m l : Nat) : Nat := 12 + l + padLen m l

/-- The random prefix of a time seed (45_engine.md R242). -/
def randomPrefix (ts : DWord) : List Byte := (getRandomBytes (prngNew ts) 6).1

/-- The framed buffer (45_engine.md R244). -/
def framedBuffer (m : Nat) (pre payload : List Byte) : List Byte :=
  beBytes 4 payload.length ++ pre ++ payload ++ List.replicate (padLen m payload.length) 0x01

/-- The seed of the global shuffle (45_engine.md R245). -/
def globalSeed (k : List Byte) (sr : Nat) : DWord := BitVec.ofNat 64 (byteSum k + sr)

/-- The neighbour byte of a chunk: the first byte of the next chunk, or the given one after the last
(45_engine.md R247, R256). -/
def neighbour (last : Byte) : List (List Byte) → Byte
  | [] => last
  | c :: _ => c.getD 0 0

/-- The seed of a chunk's shuffle (45_engine.md R247, R256). -/
def chunkSeed (nb : Byte) (sr : Nat) : DWord := BitVec.ofNat 64 (nb.toNat + sr)

/-- Per-chunk shuffle, ascending: the next chunk is still as the global shuffle left it (45_engine.md R247). -/
def shuffleChunks (last : Byte) (sr : Nat) : List (List Byte) → List (List Byte)
  | [] => []
  | c :: cs => shuffle c (chunkSeed (neighbour last cs) sr) 2 :: shuffleChunks last sr cs

/-- Per-chunk unshuffle, descending: the next chunk is already restored (45_engine.md R256). -/
def unshuffleChunks (last : Byte) (sr : Nat) : List (List Byte) → List (List Byte)
  | [] => []
  | c :: cs =>
    let rest := unshuffleChunks last sr cs
    unshuffle c (chunkSeed (neighbour last rest) sr) 2 :: rest

/-- The framed buffer permuted and mixed (45_engine.md R246, R247, R248). -/
def scrambleFrame (m : Nat) (k : List Byte) (sr : Nat) (f : List Byte) : List Byte :=
  let g := shuffle f (globalSeed k sr) 5
  let c := (shuffleChunks (k.getD 0 0) sr (blocks m g)).flatten
  mix m c k

/-- The working buffer unmixed and unpermuted (45_engine.md R255, R256, R257). -/
def unscrambleFrame (m : Nat) (k : List Byte) (sr : Nat) (w : List Byte) : List Byte :=
  let u := unmix m w k
  let c := (unshuffleChunks (k.getD 0 0) sr (blocks m u)).flatten
  unshuffle c (globalSeed k sr) 5

/-- encrypt (45_engine.md R250). -/
def encryptToken (m : Nat) (payload pw : List Byte) (ts : DWord) : List Byte :=
  let k := keystream m pw
  let pre := randomPrefix ts
  let sr := byteSum pre
  scrambleFrame m k sr (framedBuffer m pre payload) ++ beBytes 2 (sr % 65536)

/-- How the function decrypt ends (45_engine.md R252, R254, R258, R259). -/
inductive Decrypted where
  /-- shorter than 6 bytes (R252), cause (a) of 60_exceptions.md R284 -/
  | tooShort
  /-- not two bytes more than a multiple of the matrix size (R254), cause (b) -/
  | notMultiple
  /-- the length field exceeds the buffer (R258), cause (c), found late -/
  | badLength
  /-- the payload (R259) -/
  | payload (p : List Byte)
  deriving DecidableEq, Repr

/-- decrypt (45_engine.md R252 to R260). -/
def decryptToken (m : Nat) (e pw : List Byte) : Decrypted :=
  if e.length < 6 then .tooShort
  else
    let n := e.length - 2
    let sr := fromBe (e.drop n)
    if n % m ≠ 0 then .notMultiple
    else
      let w := unscrambleFrame m (keystream m pw) sr (e.take n)
      let l := fromBe (w.take 4)
      if n < l + 10 then .badLength
      else .payload ((w.drop 10).take l)

/-- The token of the ENCRYPT in progress. -/
def State.token (s : State) : List Byte := encryptToken s.msize s.region s.password s.op.timeSeed

/-- ENCRYPT's token would fit in BUF at ADDR (45_engine.md R251, 60_exceptions.md R282). -/
def tokenFits (p : Params) (r : Regs) : Bool :=
  r.addr.toNat + tokenLen r.matrixSize.toNat r.len.toNat ≤ p.bufSize

/-- ENCRYPT (45_engine.md R251). -/
def execEncrypt (s : State) : Host.Outcome State Fault Refusal :=
  .next (
    if passwordFits s.cfg s.op.regs && regionFits s.cfg s.op.regs then
      if tokenFits s.cfg s.op.regs then
        { s.store .buf s.op.regs.addr.toNat s.token with
          outLen := BitVec.ofNat 32 (tokenLen s.msize s.op.regs.len.toNat) }.complete .ok
      else s.raiseFramed .payloadTooLarge
    else s.raiseFramed .range)

/-- DECRYPT's output: the payload at ADDR, the rest of the token region unspecified (45_engine.md R260). -/
def State.storePayload (s : State) (p : List Byte) : State :=
  let a := s.op.regs.addr.toNat
  (s.store .buf a p).scramble .buf (a + p.length) (s.op.regs.len.toNat - p.length)

/-- DECRYPT (45_engine.md R260). -/
def execDecrypt (s : State) : Host.Outcome State Fault Refusal :=
  .next (
    if passwordFits s.cfg s.op.regs && regionFits s.cfg s.op.regs then
      match decryptToken s.msize s.region s.password with
      | .tooShort => s.raiseFramed .invalidTokenLength
      | .notMultiple => s.raiseFramed .invalidTokenLength
      | .badLength => (s.scramble .buf s.op.regs.addr.toNat s.op.regs.len.toNat).raiseFramed .invalidTokenLength
      | .payload p => { s.storePayload p with outLen := BitVec.ofNat 32 p.length }.complete .ok
    else s.raiseFramed .range)

end Sys2Proof.Machine
end

