-- ==== Sys2Proof/Machine/Reset.lean ====
section
/-! DEFINITION. Soft reset, the abort of a command, and power-on reset (70_reset_and_hazards.md R310 to R314). -/

namespace Sys2Proof.Machine

/-- The bytes of BUF from ADDR up to ADDR + n, cut at the end of BUF. -/
def bufSpan (p : Params) (r : Regs) (n : Nat) : Nat := min (r.addr.toNat + n) p.bufSize - r.addr.toNat

/-- The bytes an aborted command could write: memory, first index, count (70_reset_and_hazards.md R312 (c)). -/
def abortRegion (p : Params) (r : Regs) : Instr → Option (MemId × Nat × Nat)
  | .nop => none
  | .prngSeed => none
  | .prngTseed => none
  | .prngU32 => none
  | .prngU64 => none
  | .prngF64 => none
  | .prngRange => none
  | .prngBytes => some (.buf, r.addr.toNat, bufSpan p r r.len.toNat)
  | .keygen => some (.ks, 0, r.matrixSize.toNat)
  | .shuffle => some (.buf, r.addr.toNat, bufSpan p r r.len.toNat)
  | .unshuffle => some (.buf, r.addr.toNat, bufSpan p r r.len.toNat)
  | .mix => some (.buf, r.addr.toNat, bufSpan p r r.len.toNat)
  | .unmix => some (.buf, r.addr.toNat, bufSpan p r r.len.toNat)
  | .encrypt => some (.buf, r.addr.toNat, bufSpan p r (tokenLen r.matrixSize.toNat r.len.toNat))
  | .decrypt => some (.buf, r.addr.toNat, bufSpan p r r.len.toNat)

/-- The region of the command in progress, if there is one and it could write memory. -/
def State.abortSpan (s : State) : Option (MemId × Nat × Nat) :=
  if s.busy then
    match decode s.cmd with
    | .ok i => abortRegion s.cfg s.op.regs i
    | .error _ => none
  else none

/-- The memories when the command in progress, if any, is abandoned (70_reset_and_hazards.md R312, R313). -/
def State.abort (s : State) : State :=
  match s.abortSpan with
  | some (id, a, n) => s.scramble id a n
  | none => s

/-- Soft reset (70_reset_and_hazards.md R310 (b)): registers and flags as after power-on, memories as R312 says. -/
def State.softReset (s : State) : State :=
  let t := s.abort
  { State.resetOf s.cfg with buf := t.buf, pw := t.pw, ks := t.ks, draws := t.draws, epoch := s.epoch,
                             inbox := s.inbox, bus := s.bus }

/-- Power-on reset (70_reset_and_hazards.md R310 (a), R312 (a)): every byte of the memories is a new draw. -/
def State.powerOn (s : State) : State :=
  { State.resetOf s.cfg with draws := s.draws, epoch := s.epoch + 1, inbox := s.inbox }

end Sys2Proof.Machine
end

