-- ==== Sys2Proof/Machine/Bus.lean ====
section
/-! DEFINITION. The host port: the address map, MemRead and MemWrite, the register block, and the transition made by a host event (20_memory.md, 10_state.md, 40_control.md R141, R146, R147). -/

namespace Sys2Proof.Machine

/-- The registers of the block (10_state.md R32). -/
inductive Reg where
  | id | version | cfgBufSize | cfgPwMax | cfgMaxMatrix
  | ctrl | status | cmd
  | matrixSize | pwLen | addr | len | step
  | seedLo | seedHi | tseedLo | tseedHi | lowLo | lowHi | highLo | highHi
  | stateLo | stateHi | resLo | resHi | outLen
  deriving DecidableEq, Repr

/-- The register map (10_state.md R32). -/
def regMap : List (Nat × Reg) :=
  [(0x000, .id), (0x004, .version), (0x008, .cfgBufSize), (0x00C, .cfgPwMax), (0x010, .cfgMaxMatrix),
   (0x020, .ctrl), (0x024, .status), (0x028, .cmd),
   (0x030, .matrixSize), (0x034, .pwLen), (0x038, .addr), (0x03C, .len), (0x040, .step),
   (0x048, .seedLo), (0x04C, .seedHi), (0x050, .tseedLo), (0x054, .tseedHi),
   (0x058, .lowLo), (0x05C, .lowHi), (0x060, .highLo), (0x064, .highHi),
   (0x080, .stateLo), (0x084, .stateHi), (0x088, .resLo), (0x08C, .resHi), (0x090, .outLen)]

/-- The register at an offset; none at a reserved offset (10_state.md R54). -/
def regAt (off : Nat) : Option Reg := regMap.lookup off

/-- The value a host read of a register returns (10_state.md R33 to R53). -/
def State.readReg (s : State) : Reg → Word
  | .id => 0x46595345
  | .version => 0x00010000
  | .cfgBufSize => BitVec.ofNat 32 s.cfg.bufSize
  | .cfgPwMax => BitVec.ofNat 32 s.cfg.pwMax
  | .cfgMaxMatrix => BitVec.ofNat 32 s.cfg.maxMatrix
  | .ctrl => s.ctrlWord
  | .status => s.statusWord
  | .cmd => s.cmd
  | .matrixSize => s.regs.matrixSize
  | .pwLen => s.regs.pwLen
  | .addr => s.regs.addr
  | .len => s.regs.len
  | .step => s.regs.step
  | .seedLo => s.regs.seedLo
  | .seedHi => s.regs.seedHi
  | .tseedLo => s.regs.tseedLo
  | .tseedHi => s.regs.tseedHi
  | .lowLo => s.regs.lowLo
  | .lowHi => s.regs.lowHi
  | .highLo => s.regs.highLo
  | .highHi => s.regs.highHi
  | .stateLo => s.prng.extractLsb' 0 32
  | .stateHi => s.prng.extractLsb' 32 32
  | .resLo => s.res.extractLsb' 0 32
  | .resHi => s.res.extractLsb' 32 32
  | .outLen => s.outLen

/-- A host write to CTRL: SRST performs the soft reset and discards the rest, else IE and TSRC are
written (10_state.md R38). -/
def State.writeCtrl (s : State) (v : Word) : State :=
  if v.getLsbD 2 then s.softReset else { s with ie := v.getLsbD 0, tsrc := v.getLsbD 1 }

/-- A host write to MATRIX_SIZE (10_state.md R40): 0 is a silent no-op, a value above MAX_MATRIX is ignored
with WIGN, any other is stored. -/
def State.writeMatrixSize (s : State) (v : Word) : State :=
  if v = 0 then s
  else if s.cfg.maxMatrix < v.toNat then s.setWign
  else { s with regs := { s.regs with matrixSize := v } }

/-- A host write to CMD while the engine is idle: the word is accepted; how long the command takes is free
(40_control.md R141, R144). -/
def State.writeCmd (s : State) (v : Word) : State := s.accept v (Config.latency s.draws)

/-- A host write to a register while the engine is idle (10_state.md R38 to R55). -/
def State.writeReg (s : State) (r : Reg) (v : Word) : State :=
  match r with
  | .id => s
  | .version => s
  | .cfgBufSize => s
  | .cfgPwMax => s
  | .cfgMaxMatrix => s
  | .ctrl => s.writeCtrl v
  | .status => s.writeStatus v
  | .cmd => s.writeCmd v
  | .matrixSize => s.writeMatrixSize v
  | .pwLen => { s with regs := { s.regs with pwLen := v } }
  | .addr => { s with regs := { s.regs with addr := v } }
  | .len => { s with regs := { s.regs with len := v } }
  | .step => { s with regs := { s.regs with step := v } }
  | .seedLo => { s with regs := { s.regs with seedLo := v } }
  | .seedHi => { s with regs := { s.regs with seedHi := v } }
  | .tseedLo => { s with regs := { s.regs with tseedLo := v } }
  | .tseedHi => { s with regs := { s.regs with tseedHi := v } }
  | .lowLo => { s with regs := { s.regs with lowLo := v } }
  | .lowHi => { s with regs := { s.regs with lowHi := v } }
  | .highLo => { s with regs := { s.regs with highLo := v } }
  | .highHi => { s with regs := { s.regs with highHi := v } }
  | .stateLo => s
  | .stateHi => s
  | .resLo => s
  | .resHi => s
  | .outLen => s

/-- The number of bytes of an access. -/
def AccessSize.bytes : AccessSize → Nat
  | .byte => 1
  | .half => 2
  | .word => 4

/-- Where a legal access goes: a register, a reserved offset of the REG region, or a memory index. -/
inductive Target where
  | register (r : Reg)
  | reserved
  | window (id : MemId) (a : Nat)
  deriving DecidableEq, Repr

/-- The bytes of a memory's window (20_memory.md R81). -/
def MemId.window : MemId → Nat
  | .ks => 0x00001000
  | .pw => 0x00010000
  | .buf => 0x10000000

/-- The memory whose window holds a host address, with the index there (20_memory.md R81). -/
def windowOf (addr : Nat) : Option (MemId × Nat) :=
  [MemId.ks, MemId.pw, MemId.buf].findSome? (fun id =>
    if id.base ≤ addr ∧ addr < id.base + id.window then some (id, addr - id.base) else none)

/-- Where an access goes, or none where it is illegal (20_memory.md R81, R82, R83). -/
def route (p : Params) (addr n : Nat) : Option Target :=
  if addr < 0x1000 then
    if n = 4 ∧ addr % 4 = 0 then
      some (match regAt addr with
        | some r => .register r
        | none => .reserved)
    else none
  else
    match windowOf addr with
    | some (id, a) => if addr % n = 0 ∧ a + n ≤ id.size p then some (.window id a) else none
    | none => none

/-- A free value has been drawn. -/
def State.oneDraw (s : State) : State := { s with draws := s.draws + 1 }

/-- MemRead (20_memory.md R84): the value, zero-extended, and the state after it; a bus error is a fault
of the access. Only a window read while busy uses up a draw. -/
def memRead (s : State) (addr : Word) (n : AccessSize) : Host.Outcome (State × Word) Fault Refusal :=
  match route s.cfg addr.toNat n.bytes with
  | none => .fault (.busError addr n)
  | some (.register r) => .next (s, s.readReg r)
  | some .reserved => .next (s, 0)
  | some (.window id a) =>
    if s.busy then
      .next (s.oneDraw, BitVec.ofNat 32 ((Config.busyRead s.draws).toNat % 2 ^ (8 * n.bytes)))
    else .next (s, BitVec.ofNat 32 (fromLe (s.bytes id a n.bytes)))

/-- MemWrite (20_memory.md R85): while busy every legal write but one to CTRL or STATUS is ignored and sets
WIGN (40_control.md R146). -/
def memWrite (s : State) (addr : Word) (n : AccessSize) (v : Word) : Host.Outcome State Fault Refusal :=
  match route s.cfg addr.toNat n.bytes with
  | none => .fault (.busError addr n)
  | some (.register r) =>
    .next (if s.busy && r != .ctrl && r != .status then s.setWign else s.writeReg r v)
  | some .reserved => .next (if s.busy then s.setWign else s)
  | some (.window id a) => .next (if s.busy then s.setWign else s.store id a (leBytes n.bytes v.toNat))

/-- The response the host sees. -/
def State.respond (s : State) (r : BusResponse) : State := { s with bus := r }

/-- One event of the host port, with the response the host sees. A bus error leaves the block as it was
(20_memory.md R90). -/
def State.hostEvent (s : State) : HostEvent → State
  | .read addr n =>
    match memRead s addr n with
    | .next (t, v) => t.respond (.data v)
    | .fault f => s.respond (.error f)
    | .refused _ => s
  | .write addr n v =>
    match memWrite s addr n v with
    | .next t => t.respond .done
    | .fault f => s.respond (.error f)
    | .refused _ => s
  | .powerOn => s.powerOn

/-- A transition that is not the completion of a command: the oldest host event, or nothing but the
engine's own progress (40_control.md R144, 60_exceptions.md R293). -/
def hostTurn (s : State) : State :=
  match s.inbox with
  | [] => s.tick []
  | e :: es => (s.tick es).hostEvent e

end Sys2Proof.Machine
end

