-- ==== Sys2Proof/Machine/Dispatch.lean ====
section
/-! DEFINITION. exec: what each command does at its completion, one arm per constructor of Instr. -/

namespace Sys2Proof.Machine

def exec (i : Instr) (s : State) : Host.Outcome State Fault Refusal :=
  match i with
  | .nop => Sys2Proof.Machine.execNop s
  | .prngSeed => Sys2Proof.Machine.execPrngSeed s
  | .prngTseed => Sys2Proof.Machine.execPrngTseed s
  | .prngU32 => Sys2Proof.Machine.execPrngU32 s
  | .prngU64 => Sys2Proof.Machine.execPrngU64 s
  | .prngF64 => Sys2Proof.Machine.execPrngF64 s
  | .prngRange => Sys2Proof.Machine.execPrngRange s
  | .prngBytes => Sys2Proof.Machine.execPrngBytes s
  | .keygen => Sys2Proof.Machine.execKeygen s
  | .shuffle => Sys2Proof.Machine.execShuffle s
  | .unshuffle => Sys2Proof.Machine.execUnshuffle s
  | .mix => Sys2Proof.Machine.execMix s
  | .unmix => Sys2Proof.Machine.execUnmix s
  | .encrypt => Sys2Proof.Machine.execEncrypt s
  | .decrypt => Sys2Proof.Machine.execDecrypt s

end Sys2Proof.Machine
end

