-- ==== Sys2Proof/Machine/Step.lean ====
section
/-! DEFINITION. One transition of the machine: the completion of the due command, or a turn of the host port. -/

namespace Sys2Proof.Machine

/-- One transition (40_control.md R144, R145; 60_exceptions.md R293). -/
def step (s : State) : Host.Outcome State Fault Refusal :=
  match fetch s with
  | some w =>
    match decode w with
    | .ok i => exec i s
    | .error _ => badCommand s
  | none => .next (hostTurn s)

/-- The state in which the given command word has just been accepted and its completion is the next
transition: operands sampled, BUSY set. -/
def State.withFetchWord (s : State) (nbits w : Nat) : State := s.accept (tableWord nbits w) 0

end Sys2Proof.Machine
end

