-- ==== Sys2Proof/Safety.lean ====
section
/-! DEFINITION. What claims are stated in terms of: the invariant of the machine, the legal host accesses as the spec lists them, and the state no command touches. -/

namespace Sys2Proof.Machine

/-- What holds after power-on reset and after every transition. -/
structure State.Inv (s : State) : Prop where
  /-- the parameters are in their legal ranges (00_scope.md R8) -/
  cfgLegal : s.cfg.legal = true
  /-- the three memories are in canonical form -/
  memWf : ∀ id, (s.mem id).wf
  /-- no byte is held beyond a memory's size (10_state.md R60, R61, R62) -/
  memBounded : ∀ id, ∀ c ∈ s.mem id, c.1 < id.size s.cfg
  /-- 1 ≤ MATRIX_SIZE ≤ MAX_MATRIX at every moment (10_state.md R40) -/
  matrixLegal : 1 ≤ s.regs.matrixSize.toNat ∧ s.regs.matrixSize.toNat ≤ s.cfg.maxMatrix
  /-- ERR holds a code of 60_exceptions.md R281 -/
  errLegal : isErrCode s.err = true
  /-- DONE and ERR are 0 from acceptance to completion (10_state.md R56, 40_control.md R143) -/
  busyFlags : s.busy = true → s.done = false ∧ s.err = 0
  /-- while busy the operand registers are still those sampled (40_control.md R142, R146) -/
  busyOperands : s.busy = true → s.op.regs = s.regs
  /-- no hidden state survives a command (10_state.md R57) -/
  idleHidden : s.busy = false → s.op = Operands.idle ∧ s.left = 0

/-- A legal host access as 20_memory.md R82 and R83 list them: a register access is an aligned word; a
window access is naturally aligned and inside the used part. -/
def legalAccess (p : Params) (addr n : Nat) : Prop :=
  (addr < 0x1000 ∧ n = 4 ∧ addr % 4 = 0) ∨
  (∃ id : MemId, id.base ≤ addr ∧ addr + n ≤ id.base + id.size p ∧ addr % n = 0)

/-- The commands of 41_prng.md, which alone write STATE (10_state.md R50). -/
def writesState : Instr → Bool
  | .nop => false
  | .prngSeed => true
  | .prngTseed => true
  | .prngU32 => true
  | .prngU64 => true
  | .prngF64 => true
  | .prngRange => true
  | .prngBytes => true
  | .keygen => false
  | .shuffle => false
  | .unshuffle => false
  | .mix => false
  | .unmix => false
  | .encrypt => false
  | .decrypt => false

/-- The commands that write RES (10_state.md R51). -/
def writesRes : Instr → Bool
  | .nop => false
  | .prngSeed => false
  | .prngTseed => false
  | .prngU32 => true
  | .prngU64 => true
  | .prngF64 => true
  | .prngRange => true
  | .prngBytes => false
  | .keygen => false
  | .shuffle => false
  | .unshuffle => false
  | .mix => false
  | .unmix => false
  | .encrypt => false
  | .decrypt => false

/-- The commands that write OUT_LEN (10_state.md R53). -/
def writesOutLen : Instr → Bool
  | .nop => false
  | .prngSeed => false
  | .prngTseed => false
  | .prngU32 => false
  | .prngU64 => false
  | .prngF64 => false
  | .prngRange => false
  | .prngBytes => false
  | .keygen => false
  | .shuffle => false
  | .unshuffle => false
  | .mix => false
  | .unmix => false
  | .encrypt => true
  | .decrypt => true

/-- The bytes a command may store to: memory, first index, count. Only ENCRYPT stores beyond its operand
region, up to the end of the token (45_engine.md R251). -/
def storedSpan (r : Regs) : Instr → Option (MemId × Nat × Nat)
  | .nop => none
  | .prngSeed => none
  | .prngTseed => none
  | .prngU32 => none
  | .prngU64 => none
  | .prngF64 => none
  | .prngRange => none
  | .prngBytes => some (.buf, r.addr.toNat, r.len.toNat)
  | .keygen => some (.ks, 0, r.matrixSize.toNat)
  | .shuffle => some (.buf, r.addr.toNat, r.len.toNat)
  | .unshuffle => some (.buf, r.addr.toNat, r.len.toNat)
  | .mix => some (.buf, r.addr.toNat, r.len.toNat)
  | .unmix => some (.buf, r.addr.toNat, r.len.toNat)
  | .encrypt => some (.buf, r.addr.toNat, tokenLen r.matrixSize.toNat r.len.toNat)
  | .decrypt => some (.buf, r.addr.toNat, r.len.toNat)

/-- A byte lies in a span. -/
def inSpan (span : Option (MemId × Nat × Nat)) (id : MemId) (a : Nat) : Prop :=
  match span with
  | some (j, first, count) => id = j ∧ first ≤ a ∧ a < first + count
  | none => False

/-- The state no command touches (40_control.md R149): the parameters, CTRL, WIGN, CMD, every operand
register, PW, and the host's side of the port. -/
def untouchedByCommands (s t : State) : Prop :=
  t.cfg = s.cfg ∧ t.ie = s.ie ∧ t.tsrc = s.tsrc ∧ t.wign = s.wign ∧ t.cmd = s.cmd ∧ t.regs = s.regs ∧
  t.pw = s.pw ∧ t.inbox = s.inbox ∧ t.bus = s.bus ∧ t.epoch = s.epoch

/-- A host event that resets the block if it is performed (70_reset_and_hazards.md R310): power-on, or a
word write to CTRL with SRST set. -/
def isResetEvent : HostEvent → Bool
  | .read _ _ => false
  | .write addr n v => addr = 0x020 && n = .word && v.getLsbD 2
  | .powerOn => true

/-- `r` is the correctly rounded binary64 value of `num / den` units of 2^-1074 with the sign `neg` (00_scope.md
R14): an infinity from half a last place past the largest finite value on, else a value such that no finite value
of that sign is nearer to the exact quotient, and whose last fraction bit is 0 where another is as near.
Distances are scaled by `den`. -/
def roundsTo (neg : Bool) (num den : Nat) (r : DWord) : Prop :=
  if (2 ^ 54 - 1) * 2 ^ 2044 * den ≤ num then f64View r = .inf neg
  else ∃ m k : Nat, f64View r = .fin neg m k ∧
    ∀ (y : DWord) (n l : Nat), f64View y = .fin neg n l →
      |((m * 2 ^ k * den : Nat) : Int) - num| ≤ |((n * 2 ^ l * den : Nat) : Int) - num| ∧
      (|((m * 2 ^ k * den : Nat) : Int) - num| = |((n * 2 ^ l * den : Nat) : Int) - num| → n * 2 ^ l ≠ m * 2 ^ k →
        r.getLsbD 0 = false)

/-- The state after the command in progress has completed with a code and no other effect
(40_control.md R145). -/
def State.finished (s : State) (code : Byte) : State :=
  { s with err := code, busy := false, done := true, op := Operands.idle, left := 0 }

end Sys2Proof.Machine
end

