-- ==== Sys2Proof/Certificates/Slice0/Obligations.lean ====
section
/-! DEFINITION. The statements for the provers, each citing the rule of spec/ it rests on. -/

open Sys2Proof Sys2Proof.Machine

/-! ### Encoding -/

/-- The fifteen words of the opcode map of 30_encoding.md R112, written out. -/
def Obligations.TableWordsDecode : Prop :=
  decode 0x00000000 = .ok .nop ∧ decode 0x00000001 = .ok .prngSeed ∧ decode 0x00000002 = .ok .prngTseed ∧
  decode 0x00000003 = .ok .prngU32 ∧ decode 0x00000004 = .ok .prngU64 ∧ decode 0x00000005 = .ok .prngF64 ∧
  decode 0x00000006 = .ok .prngRange ∧ decode 0x00000007 = .ok .prngBytes ∧ decode 0x00000010 = .ok .keygen ∧
  decode 0x00000020 = .ok .shuffle ∧ decode 0x00000021 = .ok .unshuffle ∧ decode 0x00000030 = .ok .mix ∧
  decode 0x00000031 = .ok .unmix ∧ decode 0x00000040 = .ok .encrypt ∧ decode 0x00000041 = .ok .decrypt

/-- Decode and encode agree in both directions, on words and on the bytes of a word (30_encoding.md R110,
R112, R115): no bit of a command word is dropped, and no two words are one command. -/
def Obligations.DecodeEncodeAgree : Prop :=
  (∀ i : Instr, i.wellFormed = true → decode (encode i) = .ok i ∧ decodeBytes (wordBytes (encode i)) = .ok i) ∧
  (∀ (w : Word) (i : Instr), decode w = .ok i → w = encode i) ∧
  (∀ w : Word, decodeBytes (wordBytes w) = decode w)

/-- Illegal and reserved words (30_encoding.md R113, R114): each completes with BAD_COMMAND and no other
effect. -/
def Obligations.IllegalWordsCompleteWithBadCommand : Prop :=
  ∀ s : State, s.busy = true → s.left = 0 →
    ((256 ≤ s.cmd.toNat) ∨ (0x08 ≤ s.cmd.toNat ∧ s.cmd.toNat ≤ 0x0F) ∨ (0x11 ≤ s.cmd.toNat ∧ s.cmd.toNat ≤ 0x1F) ∨
      (0x22 ≤ s.cmd.toNat ∧ s.cmd.toNat ≤ 0x2F) ∨ (0x32 ≤ s.cmd.toNat ∧ s.cmd.toNat ≤ 0x3F) ∨
      (0x42 ≤ s.cmd.toNat ∧ s.cmd.toNat ≤ 0xFF)) →
    step s = .next (s.finished 0x10)

/-! ### Lifecycle -/

/-- The step runs the decoded command when it is due, and withFetchWord makes a word due. The decoder is that of
30_encoding.md R115. That a command is due when `left` is 0 and that its whole effect is that one transition
is the model's choice (log 6), and so is that `withFetchWord` stands for an accepted CMD write (log 7). -/
def Obligations.StepRunsTheDueCommand : Prop :=
  (∀ (s : State) (i : Instr), i.wellFormed = true → s.busy = true → s.left = 0 → decode s.cmd = .ok i →
    step s = exec i s) ∧
  (∀ (s : State) (nbits w : Nat) (i : Instr), decodeTableWord nbits w = some i →
    step (s.withFetchWord nbits w) = exec i (s.withFetchWord nbits w))

/-- Acceptance (40_control.md R142, R143): a legal write to CMD while the engine is idle. The operands are
sampled; for PRNG_TSEED and ENCRYPT with CTRL.TSRC = 0 the time is one sample of the port (10_state.md R52), which
is the free value of log 5. The clauses on `left`, `draws`, `inbox` and `bus` are the model's own bookkeeping
(log 6, 7, 8, 10). -/
def Obligations.IdleCmdWriteIsAccepted : Prop :=
  ∀ (s : State) (w : Word) (rest : List HostEvent), s.busy = false → s.inbox = .write 0x028 .word w :: rest →
    ∃ (t : State) (time : DWord), step s = .next t ∧
      t = { s with cmd := w, busy := true, done := false, err := 0,
                   op := { regs := s.regs, tsrc := s.tsrc, time := time },
                   left := Config.latency s.draws, draws := s.draws + 1, inbox := rest, bus := .done } ∧
      (∀ i : Instr, decode w = .ok i → i = .prngTseed ∨ i = .encrypt → s.tsrc = false →
        time = Config.timePort s.draws) ∧
      t.wign = s.wign ∧ t.irq = false

/-- Completion (40_control.md R145, 60_exceptions.md R280, R281): every command ends idle with DONE set and
one of the listed codes, CMD still holds the word, no hidden state survives, and irq is IE. That the empty hidden
state is all zero is the model's choice (log 9). -/
def Obligations.EveryCommandCompletes : Prop :=
  ∀ (i : Instr) (s : State), ∃ t, exec i s = .next t ∧ t.busy = false ∧ t.done = true ∧
    (t.err = 0x00 ∨ t.err = 0x01 ∨ t.err = 0x02 ∨ t.err = 0x10 ∨ t.err = 0x11 ∨ t.err = 0x12) ∧
    t.cmd = s.cmd ∧ t.op = Operands.idle ∧ t.left = 0 ∧ t.irq = s.ie

/-- No state is stuck: every transition has a next state (60_exceptions.md R280). That an illegal host access is a
response and not a stop is how the model reads 20_memory.md R90 (log 8). -/
def Obligations.NoStateIsStuck : Prop := ∀ s : State, ∃ t, step s = .next t

/-- Every accepted command completes unless a reset comes first (40_control.md R144): after as many
transitions as it has left, and one more. That number is the model's choice, a free value (log 6). -/
def Obligations.CommandInProgressCompletes : Prop :=
  ∀ s : State, s.busy = true → (∀ e ∈ s.inbox.take s.left, isResetEvent e = false) →
    ∃ t, Host.Core.run Sys2Proof.core (s.left + 1) s = .next t ∧ t.busy = false ∧ t.done = true ∧ t.cmd = s.cmd

/-- Frame rule (40_control.md R149): what no command touches, and which commands alone write STATE, RES,
OUT_LEN and KS. -/
def Obligations.CommandsKeepTheRest : Prop :=
  ∀ (i : Instr) (s t : State), exec i s = .next t →
    untouchedByCommands s t ∧
    (writesState i = false → t.prng = s.prng) ∧ (writesRes i = false → t.res = s.res) ∧
    (writesOutLen i = false → t.outLen = s.outLen) ∧ (i ≠ .keygen → t.ks = s.ks) ∧
    (storedSpan s.op.regs i = none → t.buf = s.buf)

/-- Frame of the memories: a command changes no byte outside the span it stores to, with or without an
error (40_control.md R149, 60_exceptions.md R285). -/
def Obligations.CommandsKeepOtherBytes : Prop :=
  ∀ (i : Instr) (s t : State), exec i s = .next t → ∀ (id : MemId) (a : Nat),
    ¬ inSpan (storedSpan s.op.regs i) id a → t.byte id a = s.byte id a

/-- Register operands are read from the snapshot only (40_control.md R142): the live operand registers and
CTRL have no influence on a command. -/
def Obligations.OperandsComeFromTheSnapshot : Prop :=
  ∀ (i : Instr) (s t : State) (r : Regs) (ie tsrc : Bool), exec i s = .next t →
    exec i { s with regs := r, ie := ie, tsrc := tsrc } = .next { t with regs := r, ie := ie, tsrc := tsrc }

/-- While a command is in progress no transition but its completion or a reset changes an operand, a
memory, a result or the command (40_control.md R142, R146, R147). The clauses on `left` and `epoch` are the
model's own bookkeeping (log 6, 2). -/
def Obligations.BusyFreezesOperandsAndMemories : Prop :=
  ∀ s t : State, s.busy = true → s.left ≠ 0 → (∀ e ∈ s.inbox.take 1, isResetEvent e = false) → step s = .next t →
    t.regs = s.regs ∧ t.buf = s.buf ∧ t.pw = s.pw ∧ t.ks = s.ks ∧ t.epoch = s.epoch ∧ t.prng = s.prng ∧ t.res = s.res ∧
    t.outLen = s.outLen ∧ t.cmd = s.cmd ∧ t.op = s.op ∧ t.err = s.err ∧ t.busy = true ∧ t.left = s.left - 1

/-- STATE changes only at the completion of a command of 41_prng.md or at a reset (10_state.md R50,
41_prng.md R175). -/
def Obligations.OnlyPrngCommandsChangeState : Prop :=
  ∀ s t : State, step s = .next t → t.prng ≠ s.prng →
    (∃ i, fetch s = some s.cmd ∧ decode s.cmd = .ok i ∧ writesState i = true) ∨
    (∃ e rest, fetch s = none ∧ s.inbox = e :: rest ∧ isResetEvent e = true)

/-! ### NOP and the PRNG commands -/

/-- NOP (40_control.md R148). -/
def Obligations.NopResult : Prop := ∀ s : State, exec .nop s = .next (s.finished 0x00)

/-- PRNG_SEED (41_prng.md R168, R166): STATE becomes {SEED_HI, SEED_LO}. -/
def Obligations.PrngSeedResult : Prop :=
  ∀ s : State, ∃ x : DWord, x.toNat = s.op.regs.seedHi.toNat * 2 ^ 32 + s.op.regs.seedLo.toNat ∧
    exec .prngSeed s = .next ({ s with prng := x }.finished 0x00)

/-- PRNG_TSEED (41_prng.md R169, R167): STATE becomes {TSEED_HI, TSEED_LO} or the time sample. -/
def Obligations.PrngTseedResult : Prop :=
  ∀ s : State, ∃ x : DWord,
    x.toNat = (if s.op.tsrc = true then s.op.regs.tseedHi.toNat * 2 ^ 32 + s.op.regs.tseedLo.toNat
      else s.op.time.toNat) ∧
    exec .prngTseed s = .next ({ s with prng := x }.finished 0x00)

/-- PRNG_U32 (41_prng.md R170, R161, R160), in exact integers. -/
def Obligations.PrngU32Result : Prop :=
  ∀ s : State, ∃ x r : DWord,
    x.toNat = (s.prng.toNat * 6364136223846793005 + 1442695040888963407) % 2 ^ 64 ∧
    r.toNat = x.toNat / 2 ^ 32 ∧
    exec .prngU32 s = .next ({ s with prng := x, res := r }.finished 0x00)

/-- PRNG_U64 (41_prng.md R171, R162), in exact integers: two draws, the first in the high half. -/
def Obligations.PrngU64Result : Prop :=
  ∀ s : State, ∃ x y r : DWord,
    x.toNat = (s.prng.toNat * 6364136223846793005 + 1442695040888963407) % 2 ^ 64 ∧
    y.toNat = (x.toNat * 6364136223846793005 + 1442695040888963407) % 2 ^ 64 ∧
    r.toNat = x.toNat / 2 ^ 32 * 2 ^ 32 + y.toNat / 2 ^ 32 ∧
    exec .prngU64 s = .next ({ s with prng := y, res := r }.finished 0x00)

/-- Binary64 arithmetic (00_scope.md R14): the encoding of a pattern; each operation on finite operands gives the
correctly rounded exact quotient, product, sum or difference (`roundsTo`), with the sign of an exact zero; and
the special values of infinities, zeros and NaN. -/
def Obligations.BinaryRoundingIsToNearestEven : Prop :=
  (∀ x : DWord,
    let e := x.toNat / 2 ^ 52 % 2 ^ 11
    let f := x.toNat % 2 ^ 52
    let neg := decide (2 ^ 63 ≤ x.toNat)
    f64View x = if e = 2047 then (if f = 0 then .inf neg else .nan)
      else if e = 0 then .fin neg f 0 else .fin neg (2 ^ 52 + f) (e - 1)) ∧
  (∀ (neg : Bool) (num den : Nat), 0 < den → roundsTo neg num den (f64Round neg num den)) ∧
  (∀ n : Nat, roundsTo false (n * 2 ^ 1074) 1 (f64OfNat n)) ∧
  (∀ (a b : DWord) (s t : Bool) (m k n l : Nat), f64View a = .fin s m k → f64View b = .fin t n l →
    roundsTo (s ^^ t) (m * 2 ^ k * (n * 2 ^ l)) (2 ^ 1074) (fmul a b) ∧
    (n ≠ 0 → roundsTo (s ^^ t) (m * 2 ^ k * 2 ^ 1074) (n * 2 ^ l) (fdiv a b)) ∧
    (n = 0 → f64View (fdiv a b) = if m = 0 then .nan else .inf (s ^^ t)) ∧
    (let z := f64Units s m k + f64Units t n l
     (z ≠ 0 → roundsTo (decide (z < 0)) z.natAbs 1 (fadd a b)) ∧
     (z = 0 → f64View (fadd a b) = .fin (s && t) 0 0)) ∧
    (let z := f64Units s m k - f64Units t n l
     (z ≠ 0 → roundsTo (decide (z < 0)) z.natAbs 1 (fsub a b)) ∧
     (z = 0 → f64View (fsub a b) = .fin (s && !t) 0 0))) ∧
  (∀ a b : DWord, f64View a = .nan ∨ f64View b = .nan →
    f64View (fmul a b) = .nan ∧ f64View (fdiv a b) = .nan ∧ f64View (fadd a b) = .nan ∧ f64View (fsub a b) = .nan) ∧
  (∀ (a b : DWord) (s t : Bool), f64View a = .inf s → f64View b = .inf t →
    f64View (fmul a b) = .inf (s ^^ t) ∧ f64View (fdiv a b) = .nan ∧
    f64View (fadd a b) = (if s = t then .inf s else .nan) ∧
    f64View (fsub a b) = (if s = t then .nan else .inf s)) ∧
  (∀ (a b : DWord) (s t : Bool) (n l : Nat), f64View a = .inf s → f64View b = .fin t n l →
    f64View (fmul a b) = (if n = 0 then .nan else .inf (s ^^ t)) ∧
    f64View (fmul b a) = (if n = 0 then .nan else .inf (s ^^ t)) ∧
    f64View (fdiv a b) = .inf (s ^^ t) ∧ f64View (fdiv b a) = .fin (s ^^ t) 0 0 ∧
    f64View (fadd a b) = .inf s ∧ f64View (fadd b a) = .inf s ∧
    f64View (fsub a b) = .inf s ∧ f64View (fsub b a) = .inf (!s))

/-- PRNG_F64 (41_prng.md R172, R163): the result is the binary64 value nearest to draw / u32::MAX, zero or
normal, never above 1.0, exactly +0.0 and 1.0 at the two ends. -/
def Obligations.PrngF64Result : Prop :=
  ∀ s : State, ∃ x r : DWord,
    x.toNat = (s.prng.toNat * 6364136223846793005 + 1442695040888963407) % 2 ^ 64 ∧
    exec .prngF64 s = .next ({ s with prng := x, res := r }.finished 0x00) ∧
    (r = 0 ↔ x.toNat / 2 ^ 32 = 0) ∧ (r = 0x3FF0000000000000 ↔ x.toNat / 2 ^ 32 = 4294967295) ∧
    ∃ m k : Nat, f64View r = .fin false m k ∧ (m = 0 ∨ 2 ^ 52 ≤ m) ∧ m * 2 ^ k ≤ 2 ^ 1074 ∧
      ∀ (y : DWord) (n l : Nat), f64View y = .fin false n l →
        |((m * 2 ^ k * 4294967295 : Nat) : Int) - ((x.toNat / 2 ^ 32 * 2 ^ 1074 : Nat) : Int)| ≤
        |((n * 2 ^ l * 4294967295 : Nat) : Int) - ((x.toNat / 2 ^ 32 * 2 ^ 1074 : Nat) : Int)|

/-- PRNG_RANGE (41_prng.md R173, R164): subtract, multiply, add, each rounded; a NaN is the canonical one; the
state advances by one step in every case. The special values: a NaN operand and an infinite LOW give NaN; an
infinite HIGH or a difference past the largest finite value gives that infinity, or NaN when the draw is 0. -/
def Obligations.PrngRangeResult : Prop :=
  ∀ s : State, ∃ x r : DWord,
    x.toNat = (s.prng.toNat * 6364136223846793005 + 1442695040888963407) % 2 ^ 64 ∧
    exec .prngRange s = .next ({ s with prng := x, res := r }.finished 0x00) ∧
    (let low := s.op.regs.lowHi ++ s.op.regs.lowLo
     let high := s.op.regs.highHi ++ s.op.regs.highLo
     let draw := x.toNat / 2 ^ 32
     let f := fdiv (f64OfNat draw) (f64OfNat 4294967295)
     let v := fadd low (fmul (fsub high low) f)
     (f64View v = .nan → r = 0x7FF8000000000000) ∧ (f64View v ≠ .nan → r = v) ∧
     (f64View low = .nan ∨ f64View high = .nan → r = 0x7FF8000000000000) ∧
     (∀ g, f64View low = .inf g → r = 0x7FF8000000000000) ∧
     (∀ g h m k, f64View low = .fin h m k → f64View high = .inf g →
       r = if draw = 0 then 0x7FF8000000000000 else high) ∧
     (∀ g h m k, f64View low = .fin h m k → f64View (fsub high low) = .inf g →
       if draw = 0 then r = 0x7FF8000000000000 else f64View r = .inf g))

/-- PRNG_BYTES (41_prng.md R174, R165): byte `k` is byte `k mod 4`, least significant first, of draw
`k div 4`; the state advances by ceil(LEN / 4) draws; the region must fit. -/
def Obligations.PrngBytesResult : Prop :=
  ∀ s : State,
    (s.op.regs.addr.toNat + s.op.regs.len.toNat ≤ s.cfg.bufSize →
      ∃ m : Memory, exec .prngBytes s =
          .next ({ s with buf := m, prng := lcg^[(s.op.regs.len.toNat + 3) / 4] s.prng }.finished 0x00) ∧
        (∀ k, k < s.op.regs.len.toNat → ({ s with buf := m } : State).byte .buf (s.op.regs.addr.toNat + k) =
          (lcg^[k / 4 + 1] s.prng).extractLsb' (32 + 8 * (k % 4)) 8) ∧
        (∀ a, ¬ (s.op.regs.addr.toNat ≤ a ∧ a < s.op.regs.addr.toNat + s.op.regs.len.toNat) →
          ({ s with buf := m } : State).byte .buf a = s.byte .buf a)) ∧
    (s.cfg.bufSize < s.op.regs.addr.toNat + s.op.regs.len.toNat → exec .prngBytes s = .next (s.finished 0x11))

/-! ### KEYGEN -/

/-- KEYGEN (42_keystream.md R191, R190). -/
def Obligations.KeygenResult : Prop :=
  ∀ s : State,
    (s.op.regs.pwLen.toNat ≤ s.cfg.pwMax →
      ∃ m : Memory, exec .keygen s = .next ({ s with ks := m }.finished 0x00) ∧
        (∀ k, k < s.op.regs.matrixSize.toNat → ({ s with ks := m } : State).byte .ks k =
          (if s.op.regs.pwLen.toNat = 0 then 0 else s.byte .pw (k % s.op.regs.pwLen.toNat))) ∧
        (∀ k, s.op.regs.matrixSize.toNat ≤ k → ({ s with ks := m } : State).byte .ks k = s.byte .ks k)) ∧
    (s.cfg.pwMax < s.op.regs.pwLen.toNat → exec .keygen s = .next (s.finished 0x11))

/-- Passwords with one key-stream cannot be told apart (42_keystream.md R192): a repeated password, the
first M bytes of a long one, and zero bytes, each with the key-stream named and the tokens equal. -/
def Obligations.PasswordsWithOneKeystream : Prop :=
  (∀ (m : Nat) (p : List Byte), keystream m (p ++ p) = keystream m p) ∧
  (∀ (m : Nat) (p : List Byte), m ≤ p.length → keystream m p = p.take m) ∧
  (∀ (m n : Nat), keystream m (List.replicate n 0) = keystream m []) ∧
  (∀ (m : Nat) (p q payload e : List Byte) (ts : DWord), keystream m p = keystream m q →
    encryptToken m payload p ts = encryptToken m payload q ts ∧ decryptToken m e p = decryptToken m e q)

/-! ### Permutation -/

/-- The pivots (43_permutation.md R201): exactly the numbers n-1-k*step that are at least 1, largest first,
ceil((n-1)/step) of them. -/
def Obligations.PivotSequence : Prop :=
  ∀ n step : Nat, 1 ≤ step →
    (∀ i, i ∈ pivots n step ↔ 1 ≤ i ∧ ∃ k, i + k * step + 1 = n) ∧
    (pivots n step).Pairwise (fun a b => b < a) ∧
    (1 ≤ n → n - 1 ≤ (pivots n step).length * step ∧ (pivots n step).length * step < n - 1 + step)

/-- The swap-index draw (43_permutation.md R200): the expanded formula, the range 0 ≤ j ≤ i, the self-swap at
the largest draw, and one LCG step, for every pivot a buffer can have. -/
def Obligations.SwapIndexDraw : Prop :=
  ∀ (s : DWord) (i : Nat), 1 ≤ i → i < 2 ^ 28 →
    (drawIndex s i).1 =
      f64Floor (fmul (f64OfNat i) (fdiv (f64OfNat ((lcg s).toNat / 2 ^ 32)) (f64OfNat 4294967295))) ∧
    (drawIndex s i).1 ≤ i ∧ ((lcg s).toNat / 2 ^ 32 = 4294967295 → (drawIndex s i).1 = i) ∧
    (drawIndex s i).2 = lcg s

/-- The swap list (43_permutation.md R202): pair `k` has pivot `k` and the index drawn from the state after
`k` steps from the seed. -/
def Obligations.SwapListDraws : Prop :=
  ∀ (seed : DWord) (step n : Nat),
    (swaps seed step n).length = (pivots n step).length ∧
    ∀ (k i : Nat), (pivots n step)[k]? = some i →
      (swaps seed step n)[k]? = some (i, (drawIndex (lcg^[k] seed) i).1)

/-- Shuffle permutes, how it permutes does not depend on the bytes, and which permutation it is
(43_permutation.md R202, R203, R204): byte `k` of the result is byte `sigma k` of the input, where `sigma` is the
product of the exchanges of the swap list, first to last for shuffle and last to first for unshuffle. -/
def Obligations.ShufflePermutesIndependentlyOfData : Prop :=
  ∀ (d : List Byte) (seed : DWord) (step : Nat),
    (shuffle d seed step).Perm d ∧ (unshuffle d seed step).Perm d ∧
    (∀ f : Byte → Byte, shuffle (d.map f) seed step = (shuffle d seed step).map f ∧
      unshuffle (d.map f) seed step = (unshuffle d seed step).map f) ∧
    (d.length ≤ 2 ^ 28 →
      let exchanges : List (Equiv.Perm Nat) :=
        (swaps seed step d.length).map (fun p => Equiv.swap p.1 p.2)
      ∀ k, k < d.length →
        (shuffle d seed step)[k]? = d[exchanges.prod k]? ∧
        (unshuffle d seed step)[k]? = d[exchanges.reverse.prod k]? ∧
        exchanges.prod k < d.length ∧ exchanges.reverse.prod k < d.length)

/-- Inverse law (43_permutation.md R205). -/
def Obligations.ShuffleInverse : Prop :=
  ∀ (d : List Byte) (seed : DWord) (step : Nat), 1 ≤ step →
    unshuffle (shuffle d seed step) seed step = d ∧ shuffle (unshuffle d seed step) seed step = d

/-- SHUFFLE and UNSHUFFLE where they complete without error (43_permutation.md R207, R208). -/
def Obligations.ShuffleAndUnshuffleResults : Prop :=
  ∀ s : State, s.op.regs.addr.toNat + s.op.regs.len.toNat ≤ s.cfg.bufSize → s.op.regs.step ≠ 0 →
    (∃ m : Memory, exec .shuffle s = .next ({ s with buf := m }.finished 0x00) ∧
      (({ s with buf := m } : State).bytes .buf s.op.regs.addr.toNat s.op.regs.len.toNat =
        shuffle (s.bytes .buf s.op.regs.addr.toNat s.op.regs.len.toNat) (s.op.regs.seedHi ++ s.op.regs.seedLo)
          s.op.regs.step.toNat) ∧
      (∀ a, ¬ (s.op.regs.addr.toNat ≤ a ∧ a < s.op.regs.addr.toNat + s.op.regs.len.toNat) →
        ({ s with buf := m } : State).byte .buf a = s.byte .buf a)) ∧
    (∃ m : Memory, exec .unshuffle s = .next ({ s with buf := m }.finished 0x00) ∧
      (({ s with buf := m } : State).bytes .buf s.op.regs.addr.toNat s.op.regs.len.toNat =
        unshuffle (s.bytes .buf s.op.regs.addr.toNat s.op.regs.len.toNat) (s.op.regs.seedHi ++ s.op.regs.seedLo)
          s.op.regs.step.toNat) ∧
      (∀ a, ¬ (s.op.regs.addr.toNat ≤ a ∧ a < s.op.regs.addr.toNat + s.op.regs.len.toNat) →
        ({ s with buf := m } : State).byte .buf a = s.byte .buf a))

/-- UNSHUFFLE after SHUFFLE with the same operands restores every byte (43_permutation.md R208, R205). -/
def Obligations.UnshuffleUndoesShuffle : Prop :=
  ∀ s : State, ∃ t u : State, exec .shuffle s = .next t ∧ exec .unshuffle { t with op := s.op } = .next u ∧
    ∀ (id : MemId) (a : Nat), u.byte id a = s.byte id a

/-! ### Mixer -/

/-- Inverse law (44_mixer.md R222). -/
def Obligations.MixInverse : Prop :=
  ∀ (bs : Nat) (b key : List Byte), 1 ≤ bs → b.length % bs = 0 → key.length = bs →
    unmix bs (mix bs b key) key = b ∧ mix bs (unmix bs b key) key = b

/-- MIX and UNMIX where they complete without error (44_mixer.md R223, R224, R220, R221), byte by byte: the
first block against KS, each later byte against the byte M before it, as it stands after MIX or as it stood
before UNMIX. -/
def Obligations.MixAndUnmixResults : Prop :=
  ∀ s : State, s.op.regs.addr.toNat + s.op.regs.len.toNat ≤ s.cfg.bufSize →
    s.op.regs.len.toNat % s.op.regs.matrixSize.toNat = 0 →
    (∃ m : Memory, exec .mix s = .next ({ s with buf := m }.finished 0x00) ∧
      (∀ j, j < s.op.regs.len.toNat → ({ s with buf := m } : State).byte .buf (s.op.regs.addr.toNat + j) =
        s.byte .buf (s.op.regs.addr.toNat + j) ^^^
          (if j < s.op.regs.matrixSize.toNat then s.byte .ks j
           else ({ s with buf := m } : State).byte .buf (s.op.regs.addr.toNat + (j - s.op.regs.matrixSize.toNat)))) ∧
      (∀ a, ¬ (s.op.regs.addr.toNat ≤ a ∧ a < s.op.regs.addr.toNat + s.op.regs.len.toNat) →
        ({ s with buf := m } : State).byte .buf a = s.byte .buf a)) ∧
    (∃ m : Memory, exec .unmix s = .next ({ s with buf := m }.finished 0x00) ∧
      (∀ j, j < s.op.regs.len.toNat → ({ s with buf := m } : State).byte .buf (s.op.regs.addr.toNat + j) =
        s.byte .buf (s.op.regs.addr.toNat + j) ^^^
          (if j < s.op.regs.matrixSize.toNat then s.byte .ks j
           else s.byte .buf (s.op.regs.addr.toNat + (j - s.op.regs.matrixSize.toNat)))) ∧
      (∀ a, ¬ (s.op.regs.addr.toNat ≤ a ∧ a < s.op.regs.addr.toNat + s.op.regs.len.toNat) →
        ({ s with buf := m } : State).byte .buf a = s.byte .buf a))

/-- UNMIX after MIX with the same operands and KS restores every byte (44_mixer.md R224, R222). -/
def Obligations.UnmixUndoesMix : Prop :=
  ∀ s : State, ∃ t u : State, exec .mix s = .next t ∧ exec .unmix { t with op := s.op } = .next u ∧
    ∀ (id : MemId) (a : Nat), u.byte id a = s.byte id a

/-- The region commands with an error (60_exceptions.md R286 (c) and (d), R284 (d), R287): RANGE first, then
BAD_STEP for every LEN or INVALID_TOKEN_LENGTH, with no other effect. -/
def Obligations.RegionCommandErrors : Prop :=
  ∀ s : State,
    (s.cfg.bufSize < s.op.regs.addr.toNat + s.op.regs.len.toNat →
      exec .shuffle s = .next (s.finished 0x11) ∧ exec .unshuffle s = .next (s.finished 0x11) ∧
      exec .mix s = .next (s.finished 0x11) ∧ exec .unmix s = .next (s.finished 0x11)) ∧
    (s.op.regs.addr.toNat + s.op.regs.len.toNat ≤ s.cfg.bufSize → s.op.regs.step = 0 →
      exec .shuffle s = .next (s.finished 0x12) ∧ exec .unshuffle s = .next (s.finished 0x12)) ∧
    (s.op.regs.addr.toNat + s.op.regs.len.toNat ≤ s.cfg.bufSize →
      s.op.regs.len.toNat % s.op.regs.matrixSize.toNat ≠ 0 →
      exec .mix s = .next (s.finished 0x02) ∧ exec .unmix s = .next (s.finished 0x02))

/-! ### Framing -/

/-- The token (45_engine.md R240 to R249). For every frame of whole blocks: the global shuffle with step 5 and its
seed, then each chunk's shuffle with step 2 and its seed from the next chunk's first byte as the global shuffle
left it (or key byte 0), then the mix against the key; and `unscrambleFrame` takes all of it back (R255 to R257).
For every token: the framed buffer byte by byte, the key-stream and the random prefix in numbers, and the tail. -/
def Obligations.TokenShape : Prop :=
  (∀ (m sr : Nat) (key f : List Byte), 1 ≤ m → key.length = m → f.length % m = 0 →
    let e := scrambleFrame m key sr f
    let g := shuffle f (BitVec.ofNat 64 ((key.map BitVec.toNat).sum + sr)) 5
    unscrambleFrame m key sr e = f ∧ e.length = f.length ∧
    ∃ c : List Byte, c.length = f.length ∧
      (∀ i, i < f.length / m →
        (c.drop (i * m)).take m = shuffle ((g.drop (i * m)).take m)
          (BitVec.ofNat 64 ((if i + 1 < f.length / m then g.getD ((i + 1) * m) 0 else key.getD 0 0).toNat + sr)) 2) ∧
      (∀ j, j < f.length →
        e.getD j 0 = c.getD j 0 ^^^ (if j < m then key.getD j 0 else e.getD (j - m) 0))) ∧
  (∀ (m : Nat) (payload pw : List Byte) (ts : DWord), 1 ≤ m →
    let token := encryptToken m payload pw ts
    let l := payload.length
    let n := 10 + l + (m - (10 + l) % m) % m
    let random : Nat → Byte := fun k => (lcg^[k / 4 + 1] ts).extractLsb' (32 + 8 * (k % 4)) 8
    let sr := ((List.range 6).map (fun k => (random k).toNat)).sum
    token.length = n + 2 ∧ n % m = 0 ∧ sr ≤ 1530 ∧
    (token.getD n 0).toNat * 256 + (token.getD (n + 1) 0).toNat = sr ∧
    ∃ key f : List Byte, key.length = m ∧ f.length = n ∧ token.take n = scrambleFrame m key sr f ∧
      (∀ k, k < m → key.getD k 0 = if pw.length = 0 then 0 else pw.getD (k % pw.length) 0) ∧
      (∀ k, k < 4 → f.getD k 0 = BitVec.ofNat 8 (l / 256 ^ (3 - k))) ∧
      (∀ k, k < 6 → f.getD (4 + k) 0 = random k) ∧
      (∀ k, k < l → f.getD (10 + k) 0 = payload.getD k 0) ∧
      (∀ k, 10 + l ≤ k → k < n → f.getD k 0 = 0x01))

/-- Neighbour-byte invariant (45_engine.md R264): unshuffling the chunks from the last down reads the
neighbour bytes that shuffling them upwards read, and so restores them. -/
def Obligations.ChunkShufflesInvert : Prop :=
  ∀ (last : Byte) (sr : Nat) (cs : List (List Byte)),
    unshuffleChunks last sr (shuffleChunks last sr cs) = cs ∧
    ∀ c ds, cs = c :: ds →
      neighbour last (unshuffleChunks last sr (shuffleChunks last sr ds)) = neighbour last ds

/-- Round trip of the functions (45_engine.md R262). -/
def Obligations.DecryptInvertsEncrypt : Prop :=
  ∀ (m : Nat) (payload pw : List Byte) (ts : DWord), 1 ≤ m → payload.length < 2 ^ 32 →
    decryptToken m (encryptToken m payload pw ts) pw = .payload payload

/-- ENCRYPT where it completes without error (45_engine.md R251, R250). -/
def Obligations.EncryptResult : Prop :=
  ∀ s : State, s.cfg.legal = true → 1 ≤ s.op.regs.matrixSize.toNat → s.op.regs.pwLen.toNat ≤ s.cfg.pwMax →
    (let l := s.op.regs.len.toNat
     let size := 12 + l + (s.op.regs.matrixSize.toNat - (10 + l) % s.op.regs.matrixSize.toNat) % s.op.regs.matrixSize.toNat
     s.op.regs.addr.toNat + size ≤ s.cfg.bufSize →
      ∃ (m : Memory) (n : Word), n.toNat = size ∧
        exec .encrypt s = .next ({ s with buf := m, outLen := n }.finished 0x00) ∧
        ({ s with buf := m } : State).bytes .buf s.op.regs.addr.toNat size =
          encryptToken s.op.regs.matrixSize.toNat (s.bytes .buf s.op.regs.addr.toNat l)
            (s.bytes .pw 0 s.op.regs.pwLen.toNat)
            (if s.op.tsrc = true then s.op.regs.tseedHi ++ s.op.regs.tseedLo else s.op.time) ∧
        (∀ a, ¬ (s.op.regs.addr.toNat ≤ a ∧ a < s.op.regs.addr.toNat + size) →
          ({ s with buf := m } : State).byte .buf a = s.byte .buf a))

/-- ENCRYPT with an error (45_engine.md R251, 60_exceptions.md R282, R285, R287): RANGE for the password or
the region, then PAYLOAD_TOO_LARGE; BUF unchanged, OUT_LEN 0. -/
def Obligations.EncryptErrors : Prop :=
  ∀ s : State,
    (s.cfg.pwMax < s.op.regs.pwLen.toNat ∨ s.cfg.bufSize < s.op.regs.addr.toNat + s.op.regs.len.toNat →
      exec .encrypt s = .next ({ s with outLen := 0 }.finished 0x11)) ∧
    (s.op.regs.pwLen.toNat ≤ s.cfg.pwMax → s.op.regs.addr.toNat + s.op.regs.len.toNat ≤ s.cfg.bufSize →
      s.cfg.bufSize < s.op.regs.addr.toNat + 12 + s.op.regs.len.toNat +
        (s.op.regs.matrixSize.toNat - (10 + s.op.regs.len.toNat) % s.op.regs.matrixSize.toNat)
          % s.op.regs.matrixSize.toNat →
      exec .encrypt s = .next ({ s with outLen := 0 }.finished 0x01))

/-- DECRYPT where it completes without error (45_engine.md R260): the checks of R252, R254 and R258 pass; the
payload stands at ADDR, OUT_LEN is its length, and nothing outside the token region changes. -/
def Obligations.DecryptResult : Prop :=
  ∀ s : State, s.op.regs.pwLen.toNat ≤ s.cfg.pwMax →
    s.op.regs.addr.toNat + s.op.regs.len.toNat ≤ s.cfg.bufSize →
    6 ≤ s.op.regs.len.toNat → (s.op.regs.len.toNat - 2) % s.op.regs.matrixSize.toNat = 0 →
    (let a := s.op.regs.addr.toNat
     let n := s.op.regs.len.toNat - 2
     let sr := (s.byte .buf (a + n)).toNat * 256 + (s.byte .buf (a + n + 1)).toNat
     let w := unscrambleFrame s.op.regs.matrixSize.toNat
       (keystream s.op.regs.matrixSize.toNat (s.bytes .pw 0 s.op.regs.pwLen.toNat)) sr (s.bytes .buf a n)
     let l := fromBe (w.take 4)
     l + 10 ≤ n →
      ∃ (m : Memory) (k : Word) (d : Nat), k.toNat = l ∧
        exec .decrypt s = .next ({ s with buf := m, outLen := k, draws := d }.finished 0x00) ∧
        ({ s with buf := m } : State).bytes .buf a l = (w.drop 10).take l ∧
        (∀ x, ¬ (a ≤ x ∧ x < a + s.op.regs.len.toNat) → ({ s with buf := m } : State).byte .buf x = s.byte .buf x))

/-- DECRYPT's early errors (45_engine.md R260, 60_exceptions.md R284 (a) and (b), R285, R287): BUF unchanged,
OUT_LEN 0. -/
def Obligations.DecryptEarlyErrors : Prop :=
  ∀ s : State,
    (s.cfg.pwMax < s.op.regs.pwLen.toNat ∨ s.cfg.bufSize < s.op.regs.addr.toNat + s.op.regs.len.toNat →
      exec .decrypt s = .next ({ s with outLen := 0 }.finished 0x11)) ∧
    (s.op.regs.pwLen.toNat ≤ s.cfg.pwMax → s.op.regs.addr.toNat + s.op.regs.len.toNat ≤ s.cfg.bufSize →
      (s.op.regs.len.toNat < 6 ∨ (s.op.regs.len.toNat - 2) % s.op.regs.matrixSize.toNat ≠ 0) →
      exec .decrypt s = .next ({ s with outLen := 0 }.finished 0x02))

/-- DECRYPT's late error (45_engine.md R260, R258, 60_exceptions.md R284 (c), R285): the length field exceeds
the buffer; only the token region changes. -/
def Obligations.DecryptLateError : Prop :=
  ∀ s : State, s.op.regs.pwLen.toNat ≤ s.cfg.pwMax →
    s.op.regs.addr.toNat + s.op.regs.len.toNat ≤ s.cfg.bufSize →
    6 ≤ s.op.regs.len.toNat → (s.op.regs.len.toNat - 2) % s.op.regs.matrixSize.toNat = 0 →
    (let a := s.op.regs.addr.toNat
     let n := s.op.regs.len.toNat - 2
     let sr := (s.byte .buf (a + n)).toNat * 256 + (s.byte .buf (a + n + 1)).toNat
     let w := unscrambleFrame s.op.regs.matrixSize.toNat
       (keystream s.op.regs.matrixSize.toNat (s.bytes .pw 0 s.op.regs.pwLen.toNat)) sr (s.bytes .buf a n)
     n < fromBe (w.take 4) + 10 →
      ∃ (m : Memory) (d : Nat),
        exec .decrypt s = .next ({ s with buf := m, outLen := 0, draws := d }.finished 0x02) ∧
        (∀ x, ¬ (a ≤ x ∧ x < a + s.op.regs.len.toNat) → ({ s with buf := m } : State).byte .buf x = s.byte .buf x))

/-- DECRYPT after ENCRYPT at the same ADDR, with LEN set to the first command's OUT_LEN, restores the payload
and its length (45_engine.md R262). -/
def Obligations.DecryptAfterEncryptRestoresPayload : Prop :=
  ∀ s : State, s.cfg.legal = true → 1 ≤ s.op.regs.matrixSize.toNat → s.op.regs.pwLen.toNat ≤ s.cfg.pwMax →
    s.op.regs.addr.toNat + 12 + s.op.regs.len.toNat +
      (s.op.regs.matrixSize.toNat - (10 + s.op.regs.len.toNat) % s.op.regs.matrixSize.toNat)
        % s.op.regs.matrixSize.toNat ≤ s.cfg.bufSize →
    ∃ t u : State, exec .encrypt s = .next t ∧
      exec .decrypt { t with op := { s.op with regs := { s.op.regs with len := t.outLen } } } = .next u ∧
      u.err = 0x00 ∧ u.outLen = s.op.regs.len ∧
      ∀ k, k < s.op.regs.len.toNat →
        u.byte .buf (s.op.regs.addr.toNat + k) = s.byte .buf (s.op.regs.addr.toNat + k)

/-! ### Host port -/

/-- What a host read of every register but CTRL and STATUS returns, idle or busy (10_state.md R33 to R37, R40 to
R51, R53; 40_control.md R147): the constants and parameters, CMD, the live operand registers, OUT_LEN, and the low
and high halves of STATE and RES. -/
def Obligations.IdentityRegistersRead : Prop :=
  ∀ s : State,
    memRead s 0x000 .word = .next (s, 0x46595345) ∧ memRead s 0x004 .word = .next (s, 0x00010000) ∧
    memRead s 0x008 .word = .next (s, BitVec.ofNat 32 s.cfg.bufSize) ∧
    memRead s 0x00C .word = .next (s, BitVec.ofNat 32 s.cfg.pwMax) ∧
    memRead s 0x010 .word = .next (s, BitVec.ofNat 32 s.cfg.maxMatrix) ∧
    memRead s 0x028 .word = .next (s, s.cmd) ∧ memRead s 0x030 .word = .next (s, s.regs.matrixSize) ∧
    memRead s 0x034 .word = .next (s, s.regs.pwLen) ∧ memRead s 0x038 .word = .next (s, s.regs.addr) ∧
    memRead s 0x03C .word = .next (s, s.regs.len) ∧ memRead s 0x040 .word = .next (s, s.regs.step) ∧
    memRead s 0x048 .word = .next (s, s.regs.seedLo) ∧ memRead s 0x04C .word = .next (s, s.regs.seedHi) ∧
    memRead s 0x050 .word = .next (s, s.regs.tseedLo) ∧ memRead s 0x054 .word = .next (s, s.regs.tseedHi) ∧
    memRead s 0x058 .word = .next (s, s.regs.lowLo) ∧ memRead s 0x05C .word = .next (s, s.regs.lowHi) ∧
    memRead s 0x060 .word = .next (s, s.regs.highLo) ∧ memRead s 0x064 .word = .next (s, s.regs.highHi) ∧
    memRead s 0x090 .word = .next (s, s.outLen) ∧
    ∃ stateLo stateHi resLo resHi : Word,
      memRead s 0x080 .word = .next (s, stateLo) ∧ memRead s 0x084 .word = .next (s, stateHi) ∧
      memRead s 0x088 .word = .next (s, resLo) ∧ memRead s 0x08C .word = .next (s, resHi) ∧
      s.prng.toNat = stateHi.toNat * 2 ^ 32 + stateLo.toNat ∧ s.res.toNat = resHi.toNat * 2 ^ 32 + resLo.toNat

/-- Reserved offsets (10_state.md R54): read 0; a write while idle is ignored. -/
def Obligations.ReservedOffsets : Prop :=
  ∀ (s : State) (addr v : Word), addr.toNat < 0x1000 → addr.toNat % 4 = 0 →
    addr.toNat ∉ [0x000, 0x004, 0x008, 0x00C, 0x010, 0x020, 0x024, 0x028, 0x030, 0x034, 0x038, 0x03C, 0x040,
      0x048, 0x04C, 0x050, 0x054, 0x058, 0x05C, 0x060, 0x064, 0x080, 0x084, 0x088, 0x08C, 0x090] →
    memRead s addr .word = .next (s, 0) ∧ (s.busy = false → memWrite s addr .word v = .next s)

/-- Writes to read-only registers while idle are ignored and do not set WIGN (10_state.md R55). -/
def Obligations.ReadOnlyRegistersIgnoreWrites : Prop :=
  ∀ (s : State) (addr v : Word), s.busy = false →
    addr ∈ ([0x000, 0x004, 0x008, 0x00C, 0x010, 0x080, 0x084, 0x088, 0x08C, 0x090] : List Word) →
    memWrite s addr .word v = .next s

/-- An operand register stores any value written while idle (10_state.md R59); every other register and every
memory byte is as before. -/
def Obligations.OperandRegistersStoreAnyValue : Prop :=
  ∀ (s : State) (addr v : Word), s.busy = false →
    addr ∈ ([0x034, 0x038, 0x03C, 0x040, 0x048, 0x04C, 0x050, 0x054, 0x058, 0x05C, 0x060, 0x064] : List Word) →
    ∃ t, memWrite s addr .word v = .next t ∧ memRead t addr .word = .next (t, v) ∧
      (∀ (other x : Word), other ≠ addr → other.toNat < 0x1000 → memRead s other .word = .next (s, x) →
        memRead t other .word = .next (t, x)) ∧
      t = { s with regs := t.regs }

/-- MATRIX_SIZE's filter (10_state.md R40), while idle: 0 changes nothing, too large only sets WIGN, any other
value is stored and nothing else changes. -/
def Obligations.MatrixSizeFilter : Prop :=
  ∀ (s : State) (v : Word), s.busy = false →
    (v.toNat = 0 → memWrite s 0x030 .word v = .next s) ∧
    (v.toNat ≠ 0 → s.cfg.maxMatrix < v.toNat → memWrite s 0x030 .word v = .next { s with wign := true }) ∧
    (v.toNat ≠ 0 → v.toNat ≤ s.cfg.maxMatrix →
      memWrite s 0x030 .word v = .next { s with regs := { s.regs with matrixSize := v } })

/-- The fields of STATUS and CTRL as the host reads them, reserved bits 0, idle or busy (10_state.md R38, R39). -/
def Obligations.StatusAndCtrlFields : Prop :=
  ∀ s : State, ∃ status ctrl : Word,
    memRead s 0x024 .word = .next (s, status) ∧ memRead s 0x020 .word = .next (s, ctrl) ∧
    status.getLsbD 0 = s.busy ∧ status.getLsbD 1 = s.done ∧ status.getLsbD 2 = s.wign ∧
    status.extractLsb' 3 5 = 0 ∧ status.extractLsb' 8 8 = s.err ∧ status.extractLsb' 16 16 = 0 ∧
    ctrl.getLsbD 0 = s.ie ∧ ctrl.getLsbD 1 = s.tsrc ∧ ctrl.extractLsb' 2 30 = 0

/-- Writes to STATUS and to CTRL without SRST act at any time (10_state.md R38, R39, 40_control.md R146): a 1
clears DONE or WIGN, a 0 leaves it; IE and TSRC are stored; nothing else changes. -/
def Obligations.StatusAndCtrlWrites : Prop :=
  ∀ (s : State) (v : Word),
    (∃ t, memWrite s 0x024 .word v = .next t ∧ t = { s with done := t.done, wign := t.wign } ∧
      (t.done = true ↔ s.done = true ∧ v.getLsbD 1 = false) ∧
      (t.wign = true ↔ s.wign = true ∧ v.getLsbD 2 = false)) ∧
    (v.getLsbD 2 = false →
      memWrite s 0x020 .word v = .next { s with ie := v.getLsbD 0, tsrc := v.getLsbD 1 })

/-- A legal write while busy, but to CTRL or STATUS, is dropped and sets WIGN (40_control.md R146). The clauses
on `left`, `inbox` and `bus` are the model's own bookkeeping (log 6, 7, 8). -/
def Obligations.WritesWhileBusyAreDropped : Prop :=
  ∀ (s : State) (addr : Word) (n : AccessSize) (v : Word) (rest : List HostEvent), s.cfg.legal = true →
    s.busy = true → s.left ≠ 0 → s.inbox = .write addr n v :: rest → legalAccess s.cfg addr.toNat n.bytes →
    addr ≠ 0x020 → addr ≠ 0x024 →
    step s = .next { s with wign := true, inbox := rest, bus := .done, left := s.left - 1 }

/-- Bus errors (20_memory.md R90, R82, R83): an illegal access gets the error response and changes nothing in
the block; a legal one gets none. The clauses on `inbox`, `bus` and `left` are the model's own bookkeeping
(log 6, 7, 8). -/
def Obligations.BusErrorsChangeNothing : Prop :=
  ∀ (s : State) (addr : Word) (n : AccessSize) (v : Word), s.cfg.legal = true →
    (¬ legalAccess s.cfg addr.toNat n.bytes →
      memRead s addr n = .fault (.busError addr n) ∧ memWrite s addr n v = .fault (.busError addr n) ∧
      ∀ rest, fetch s = none → s.inbox = .read addr n :: rest ∨ s.inbox = .write addr n v :: rest →
        step s = .next { s with inbox := rest, bus := .error (.busError addr n), left := s.left - 1 }) ∧
    (legalAccess s.cfg addr.toNat n.bytes →
      (∃ p, memRead s addr n = .next p) ∧ (∃ t, memWrite s addr n v = .next t))

/-- A host event in a transition (20_memory.md R84, R85, R88). A legal access at the head of the inbox is performed:
a read hands the host the value `memRead` gives, which fits the access, a write is `memWrite` and hands the host
done. A read, legal or not, idle or busy, has no side effect on the block. That events wait in the inbox, one to a
transition, and the fields `bus`, `left` and `draws` are the model's own bookkeeping (log 3, 6, 7, 8). -/
def Obligations.ReadsHaveNoSideEffect : Prop :=
  ∀ (s : State) (addr : Word) (n : AccessSize) (rest : List HostEvent), fetch s = none →
    let u : State := { s with inbox := rest, left := s.left - 1 }
    (s.inbox = .read addr n :: rest →
      (∃ (r : BusResponse) (d : Nat), step s = .next { u with bus := r, draws := d }) ∧
      (s.cfg.legal = true → legalAccess s.cfg addr.toNat n.bytes →
        ∃ (v : Word) (d : Nat), memRead u addr n = .next ({ u with draws := d }, v) ∧
          step s = .next { u with bus := .data v, draws := d } ∧ v.toNat < 2 ^ (8 * n.bytes) ∧
          (s.busy = false → d = s.draws))) ∧
    (∀ w : Word, s.inbox = .write addr n w :: rest → s.cfg.legal = true → legalAccess s.cfg addr.toNat n.bytes →
      ∃ t : State, memWrite u addr n w = .next t ∧ step s = .next { t with bus := .done })

/-- A window write while idle, and the read after it (20_memory.md R84, R85, R86): byte `k` of the value goes to
index `a + k`, every other byte stays, and the same access reads the value back. -/
def Obligations.WindowWriteThenRead : Prop :=
  ∀ (s : State) (id : MemId) (a : Nat) (n : AccessSize) (v : Word), s.cfg.legal = true → s.busy = false →
    a + n.bytes ≤ id.size s.cfg → (id.base + a) % n.bytes = 0 → v.toNat < 2 ^ (8 * n.bytes) →
    ∃ t, memWrite s (BitVec.ofNat 32 (id.base + a)) n v = .next t ∧
      (∀ k, k < n.bytes → t.byte id (a + k) = v.extractLsb' (8 * k) 8) ∧
      (∀ (j : MemId) (x : Nat), ¬ (j = id ∧ a ≤ x ∧ x < a + n.bytes) → t.byte j x = s.byte j x) ∧
      t = { s with buf := t.buf, pw := t.pw, ks := t.ks } ∧
      memRead t (BitVec.ofNat 32 (id.base + a)) n = .next (t, v)

/-! ### Reset and invariants -/

/-- What every register reads after power-on reset (10_state.md R64 and the table of R32), with the engine
idle, no command in progress and irq low. -/
def Obligations.ResetRegisterValues : Prop :=
  ∀ p : Params,
    ((List.map (fun a : Word => match memRead (State.resetOf p) a .word with
        | .next (_, v) => some v
        | _ => none)
      [0x000, 0x004, 0x008, 0x00C, 0x010, 0x020, 0x024, 0x028, 0x030, 0x034, 0x038, 0x03C, 0x040,
       0x048, 0x04C, 0x050, 0x054, 0x058, 0x05C, 0x060, 0x064, 0x080, 0x084, 0x088, 0x08C, 0x090]) =
     ([0x46595345, 0x00010000, BitVec.ofNat 32 p.bufSize, BitVec.ofNat 32 p.pwMax, BitVec.ofNat 32 p.maxMatrix,
       0, 0, 0, 32, 0, 0, 0, 0, 0, 0, 0, 0, 0, 0, 0, 0, 0, 0, 0, 0, 0] : List Word).map some) ∧
    (State.resetOf p).busy = false ∧ (State.resetOf p).op = Operands.idle ∧ (State.resetOf p).irq = false

/-- Power-on reset (70_reset_and_hazards.md R310 (a), R311, R312 (a)): the registers as after reset, nothing
kept of the memories, the unwritten bytes those of a new power-on. That a power-on is an event of the inbox,
that it counts `epoch` and keeps `draws`, and that later events stay in the inbox is the model's choice
(log 2, 10, 12). -/
def Obligations.PowerOnReset : Prop :=
  ∀ (s : State) (rest : List HostEvent), fetch s = none → s.inbox = .powerOn :: rest →
    step s = .next { State.resetOf s.cfg with inbox := rest, draws := s.draws, epoch := s.epoch + 1 }

/-- Soft reset (70_reset_and_hazards.md R310 (b), R312 (b) and (c), R313): the registers as after reset,
whatever else the write carries; PW survives; every byte survives but those a command in progress could
write. The clauses on `draws`, `epoch`, `inbox` and `bus` are the model's own bookkeeping (log 2, 7, 8, 10). -/
def Obligations.SoftReset : Prop :=
  ∀ (s : State) (v : Word) (rest : List HostEvent), fetch s = none → s.inbox = .write 0x020 .word v :: rest →
    v.getLsbD 2 = true →
    ∃ t, step s = .next t ∧
      t = { State.resetOf s.cfg with buf := t.buf, pw := s.pw, ks := t.ks, draws := t.draws, epoch := s.epoch,
                                     inbox := rest, bus := .done } ∧
      (s.busy = false → t.buf = s.buf ∧ t.ks = s.ks) ∧
      (∀ (id : MemId) (a : Nat),
        ¬ (s.busy = true ∧ ∃ i, decode s.cmd = .ok i ∧ inSpan (storedSpan s.op.regs i) id a) →
        t.byte id a = s.byte id a)

/-- The invariant holds after power-on reset (10_state.md R64), for all legal parameters, and at `State.reset`,
whose parameters are the model's choice (log 1). -/
def Obligations.InvariantHoldsAtReset : Prop :=
  (∀ p : Params, p.legal = true → (State.resetOf p).Inv) ∧ State.reset.Inv

/-- Every transition keeps the invariant (10_state.md R40, R56, R57; 60_exceptions.md R281): the memories stay in
canonical form and within their sizes, MATRIX_SIZE stays legal, ERR stays a listed code, DONE and ERR stay
0 while busy, the sampled operands stay those of the registers, and no hidden state outlives a command. The
canonical form, and that the empty hidden state is all zero, are the model's choices (log 2, 9). -/
def Obligations.StepKeepsTheInvariant : Prop :=
  ∀ s t : State, s.Inv → step s = .next t → t.Inv
end

