-- ==== Sys2Proof/Laws/State.lean ====
section
/-! SUPPORT. One lemma per field per update of State, so that no proof unfolds a record update. -/

namespace Sys2Proof.Machine

/-! ### State.complete -/

@[simp] theorem State.complete_cfg (s : State) (e : ErrCode) : (s.complete e).cfg = s.cfg := rfl
@[simp] theorem State.complete_ie (s : State) (e : ErrCode) : (s.complete e).ie = s.ie := rfl
@[simp] theorem State.complete_tsrc (s : State) (e : ErrCode) : (s.complete e).tsrc = s.tsrc := rfl
@[simp] theorem State.complete_busy (s : State) (e : ErrCode) : (s.complete e).busy = false := rfl
@[simp] theorem State.complete_done (s : State) (e : ErrCode) : (s.complete e).done = true := rfl
@[simp] theorem State.complete_wign (s : State) (e : ErrCode) : (s.complete e).wign = s.wign := rfl
@[simp] theorem State.complete_err (s : State) (e : ErrCode) : (s.complete e).err = e.toByte := rfl
@[simp] theorem State.complete_cmd (s : State) (e : ErrCode) : (s.complete e).cmd = s.cmd := rfl
@[simp] theorem State.complete_regs (s : State) (e : ErrCode) : (s.complete e).regs = s.regs := rfl
@[simp] theorem State.complete_prng (s : State) (e : ErrCode) : (s.complete e).prng = s.prng := rfl
@[simp] theorem State.complete_res (s : State) (e : ErrCode) : (s.complete e).res = s.res := rfl
@[simp] theorem State.complete_outLen (s : State) (e : ErrCode) : (s.complete e).outLen = s.outLen := rfl
@[simp] theorem State.complete_buf (s : State) (e : ErrCode) : (s.complete e).buf = s.buf := rfl
@[simp] theorem State.complete_pw (s : State) (e : ErrCode) : (s.complete e).pw = s.pw := rfl
@[simp] theorem State.complete_ks (s : State) (e : ErrCode) : (s.complete e).ks = s.ks := rfl
@[simp] theorem State.complete_op (s : State) (e : ErrCode) : (s.complete e).op = Operands.idle := rfl
@[simp] theorem State.complete_left (s : State) (e : ErrCode) : (s.complete e).left = 0 := rfl
@[simp] theorem State.complete_inbox (s : State) (e : ErrCode) : (s.complete e).inbox = s.inbox := rfl
@[simp] theorem State.complete_bus (s : State) (e : ErrCode) : (s.complete e).bus = s.bus := rfl
@[simp] theorem State.complete_draws (s : State) (e : ErrCode) : (s.complete e).draws = s.draws := rfl
@[simp] theorem State.complete_epoch (s : State) (e : ErrCode) : (s.complete e).epoch = s.epoch := rfl

/-! ### State.raise -/

@[simp] theorem State.raise_cfg (s : State) (e : ErrCode) : (s.raise e).cfg = s.cfg := rfl
@[simp] theorem State.raise_ie (s : State) (e : ErrCode) : (s.raise e).ie = s.ie := rfl
@[simp] theorem State.raise_tsrc (s : State) (e : ErrCode) : (s.raise e).tsrc = s.tsrc := rfl
@[simp] theorem State.raise_busy (s : State) (e : ErrCode) : (s.raise e).busy = false := rfl
@[simp] theorem State.raise_done (s : State) (e : ErrCode) : (s.raise e).done = true := rfl
@[simp] theorem State.raise_wign (s : State) (e : ErrCode) : (s.raise e).wign = s.wign := rfl
@[simp] theorem State.raise_err (s : State) (e : ErrCode) : (s.raise e).err = e.toByte := rfl
@[simp] theorem State.raise_cmd (s : State) (e : ErrCode) : (s.raise e).cmd = s.cmd := rfl
@[simp] theorem State.raise_regs (s : State) (e : ErrCode) : (s.raise e).regs = s.regs := rfl
@[simp] theorem State.raise_prng (s : State) (e : ErrCode) : (s.raise e).prng = s.prng := rfl
@[simp] theorem State.raise_res (s : State) (e : ErrCode) : (s.raise e).res = s.res := rfl
@[simp] theorem State.raise_outLen (s : State) (e : ErrCode) : (s.raise e).outLen = s.outLen := rfl
@[simp] theorem State.raise_buf (s : State) (e : ErrCode) : (s.raise e).buf = s.buf := rfl
@[simp] theorem State.raise_pw (s : State) (e : ErrCode) : (s.raise e).pw = s.pw := rfl
@[simp] theorem State.raise_ks (s : State) (e : ErrCode) : (s.raise e).ks = s.ks := rfl
@[simp] theorem State.raise_op (s : State) (e : ErrCode) : (s.raise e).op = Operands.idle := rfl
@[simp] theorem State.raise_left (s : State) (e : ErrCode) : (s.raise e).left = 0 := rfl
@[simp] theorem State.raise_inbox (s : State) (e : ErrCode) : (s.raise e).inbox = s.inbox := rfl
@[simp] theorem State.raise_bus (s : State) (e : ErrCode) : (s.raise e).bus = s.bus := rfl
@[simp] theorem State.raise_draws (s : State) (e : ErrCode) : (s.raise e).draws = s.draws := rfl
@[simp] theorem State.raise_epoch (s : State) (e : ErrCode) : (s.raise e).epoch = s.epoch := rfl

/-! ### State.raiseFramed -/

@[simp] theorem State.raiseFramed_cfg (s : State) (e : ErrCode) : (s.raiseFramed e).cfg = s.cfg := rfl
@[simp] theorem State.raiseFramed_ie (s : State) (e : ErrCode) : (s.raiseFramed e).ie = s.ie := rfl
@[simp] theorem State.raiseFramed_tsrc (s : State) (e : ErrCode) : (s.raiseFramed e).tsrc = s.tsrc := rfl
@[simp] theorem State.raiseFramed_busy (s : State) (e : ErrCode) : (s.raiseFramed e).busy = false := rfl
@[simp] theorem State.raiseFramed_done (s : State) (e : ErrCode) : (s.raiseFramed e).done = true := rfl
@[simp] theorem State.raiseFramed_wign (s : State) (e : ErrCode) : (s.raiseFramed e).wign = s.wign := rfl
@[simp] theorem State.raiseFramed_err (s : State) (e : ErrCode) : (s.raiseFramed e).err = e.toByte := rfl
@[simp] theorem State.raiseFramed_cmd (s : State) (e : ErrCode) : (s.raiseFramed e).cmd = s.cmd := rfl
@[simp] theorem State.raiseFramed_regs (s : State) (e : ErrCode) : (s.raiseFramed e).regs = s.regs := rfl
@[simp] theorem State.raiseFramed_prng (s : State) (e : ErrCode) : (s.raiseFramed e).prng = s.prng := rfl
@[simp] theorem State.raiseFramed_res (s : State) (e : ErrCode) : (s.raiseFramed e).res = s.res := rfl
@[simp] theorem State.raiseFramed_outLen (s : State) (e : ErrCode) : (s.raiseFramed e).outLen = 0 := rfl
@[simp] theorem State.raiseFramed_buf (s : State) (e : ErrCode) : (s.raiseFramed e).buf = s.buf := rfl
@[simp] theorem State.raiseFramed_pw (s : State) (e : ErrCode) : (s.raiseFramed e).pw = s.pw := rfl
@[simp] theorem State.raiseFramed_ks (s : State) (e : ErrCode) : (s.raiseFramed e).ks = s.ks := rfl
@[simp] theorem State.raiseFramed_op (s : State) (e : ErrCode) : (s.raiseFramed e).op = Operands.idle := rfl
@[simp] theorem State.raiseFramed_left (s : State) (e : ErrCode) : (s.raiseFramed e).left = 0 := rfl
@[simp] theorem State.raiseFramed_inbox (s : State) (e : ErrCode) : (s.raiseFramed e).inbox = s.inbox := rfl
@[simp] theorem State.raiseFramed_bus (s : State) (e : ErrCode) : (s.raiseFramed e).bus = s.bus := rfl
@[simp] theorem State.raiseFramed_draws (s : State) (e : ErrCode) : (s.raiseFramed e).draws = s.draws := rfl
@[simp] theorem State.raiseFramed_epoch (s : State) (e : ErrCode) : (s.raiseFramed e).epoch = s.epoch := rfl

/-! ### State.drawResult -/

@[simp] theorem State.drawResult_cfg (s : State) (r p : DWord) : (s.drawResult r p).cfg = s.cfg := rfl
@[simp] theorem State.drawResult_ie (s : State) (r p : DWord) : (s.drawResult r p).ie = s.ie := rfl
@[simp] theorem State.drawResult_tsrc (s : State) (r p : DWord) : (s.drawResult r p).tsrc = s.tsrc := rfl
@[simp] theorem State.drawResult_busy (s : State) (r p : DWord) : (s.drawResult r p).busy = false := rfl
@[simp] theorem State.drawResult_done (s : State) (r p : DWord) : (s.drawResult r p).done = true := rfl
@[simp] theorem State.drawResult_wign (s : State) (r p : DWord) : (s.drawResult r p).wign = s.wign := rfl
@[simp] theorem State.drawResult_err (s : State) (r p : DWord) : (s.drawResult r p).err = 0 := rfl
@[simp] theorem State.drawResult_cmd (s : State) (r p : DWord) : (s.drawResult r p).cmd = s.cmd := rfl
@[simp] theorem State.drawResult_regs (s : State) (r p : DWord) : (s.drawResult r p).regs = s.regs := rfl
@[simp] theorem State.drawResult_prng (s : State) (r p : DWord) : (s.drawResult r p).prng = p := rfl
@[simp] theorem State.drawResult_res (s : State) (r p : DWord) : (s.drawResult r p).res = r := rfl
@[simp] theorem State.drawResult_outLen (s : State) (r p : DWord) : (s.drawResult r p).outLen = s.outLen := rfl
@[simp] theorem State.drawResult_buf (s : State) (r p : DWord) : (s.drawResult r p).buf = s.buf := rfl
@[simp] theorem State.drawResult_pw (s : State) (r p : DWord) : (s.drawResult r p).pw = s.pw := rfl
@[simp] theorem State.drawResult_ks (s : State) (r p : DWord) : (s.drawResult r p).ks = s.ks := rfl
@[simp] theorem State.drawResult_op (s : State) (r p : DWord) : (s.drawResult r p).op = Operands.idle := rfl
@[simp] theorem State.drawResult_left (s : State) (r p : DWord) : (s.drawResult r p).left = 0 := rfl
@[simp] theorem State.drawResult_inbox (s : State) (r p : DWord) : (s.drawResult r p).inbox = s.inbox := rfl
@[simp] theorem State.drawResult_bus (s : State) (r p : DWord) : (s.drawResult r p).bus = s.bus := rfl
@[simp] theorem State.drawResult_draws (s : State) (r p : DWord) : (s.drawResult r p).draws = s.draws := rfl
@[simp] theorem State.drawResult_epoch (s : State) (r p : DWord) : (s.drawResult r p).epoch = s.epoch := rfl

/-! ### State.accept -/

@[simp] theorem State.accept_cfg (s : State) (w : Word) (n : Nat) : (s.accept w n).cfg = s.cfg := rfl
@[simp] theorem State.accept_ie (s : State) (w : Word) (n : Nat) : (s.accept w n).ie = s.ie := rfl
@[simp] theorem State.accept_tsrc (s : State) (w : Word) (n : Nat) : (s.accept w n).tsrc = s.tsrc := rfl
@[simp] theorem State.accept_busy (s : State) (w : Word) (n : Nat) : (s.accept w n).busy = true := rfl
@[simp] theorem State.accept_done (s : State) (w : Word) (n : Nat) : (s.accept w n).done = false := rfl
@[simp] theorem State.accept_wign (s : State) (w : Word) (n : Nat) : (s.accept w n).wign = s.wign := rfl
@[simp] theorem State.accept_err (s : State) (w : Word) (n : Nat) : (s.accept w n).err = 0 := rfl
@[simp] theorem State.accept_cmd (s : State) (w : Word) (n : Nat) : (s.accept w n).cmd = w := rfl
@[simp] theorem State.accept_regs (s : State) (w : Word) (n : Nat) : (s.accept w n).regs = s.regs := rfl
@[simp] theorem State.accept_prng (s : State) (w : Word) (n : Nat) : (s.accept w n).prng = s.prng := rfl
@[simp] theorem State.accept_res (s : State) (w : Word) (n : Nat) : (s.accept w n).res = s.res := rfl
@[simp] theorem State.accept_outLen (s : State) (w : Word) (n : Nat) : (s.accept w n).outLen = s.outLen := rfl
@[simp] theorem State.accept_buf (s : State) (w : Word) (n : Nat) : (s.accept w n).buf = s.buf := rfl
@[simp] theorem State.accept_pw (s : State) (w : Word) (n : Nat) : (s.accept w n).pw = s.pw := rfl
@[simp] theorem State.accept_ks (s : State) (w : Word) (n : Nat) : (s.accept w n).ks = s.ks := rfl
@[simp] theorem State.accept_op (s : State) (w : Word) (n : Nat) : (s.accept w n).op = s.sampleOperands w := rfl
@[simp] theorem State.accept_left (s : State) (w : Word) (n : Nat) : (s.accept w n).left = n := rfl
@[simp] theorem State.accept_inbox (s : State) (w : Word) (n : Nat) : (s.accept w n).inbox = s.inbox := rfl
@[simp] theorem State.accept_bus (s : State) (w : Word) (n : Nat) : (s.accept w n).bus = s.bus := rfl
@[simp] theorem State.accept_draws (s : State) (w : Word) (n : Nat) : (s.accept w n).draws = s.draws + 1 := rfl
@[simp] theorem State.accept_epoch (s : State) (w : Word) (n : Nat) : (s.accept w n).epoch = s.epoch := rfl

/-! ### State.tick -/

@[simp] theorem State.tick_cfg (s : State) (rest : List HostEvent) : (s.tick rest).cfg = s.cfg := rfl
@[simp] theorem State.tick_ie (s : State) (rest : List HostEvent) : (s.tick rest).ie = s.ie := rfl
@[simp] theorem State.tick_tsrc (s : State) (rest : List HostEvent) : (s.tick rest).tsrc = s.tsrc := rfl
@[simp] theorem State.tick_busy (s : State) (rest : List HostEvent) : (s.tick rest).busy = s.busy := rfl
@[simp] theorem State.tick_done (s : State) (rest : List HostEvent) : (s.tick rest).done = s.done := rfl
@[simp] theorem State.tick_wign (s : State) (rest : List HostEvent) : (s.tick rest).wign = s.wign := rfl
@[simp] theorem State.tick_err (s : State) (rest : List HostEvent) : (s.tick rest).err = s.err := rfl
@[simp] theorem State.tick_cmd (s : State) (rest : List HostEvent) : (s.tick rest).cmd = s.cmd := rfl
@[simp] theorem State.tick_regs (s : State) (rest : List HostEvent) : (s.tick rest).regs = s.regs := rfl
@[simp] theorem State.tick_prng (s : State) (rest : List HostEvent) : (s.tick rest).prng = s.prng := rfl
@[simp] theorem State.tick_res (s : State) (rest : List HostEvent) : (s.tick rest).res = s.res := rfl
@[simp] theorem State.tick_outLen (s : State) (rest : List HostEvent) : (s.tick rest).outLen = s.outLen := rfl
@[simp] theorem State.tick_buf (s : State) (rest : List HostEvent) : (s.tick rest).buf = s.buf := rfl
@[simp] theorem State.tick_pw (s : State) (rest : List HostEvent) : (s.tick rest).pw = s.pw := rfl
@[simp] theorem State.tick_ks (s : State) (rest : List HostEvent) : (s.tick rest).ks = s.ks := rfl
@[simp] theorem State.tick_op (s : State) (rest : List HostEvent) : (s.tick rest).op = s.op := rfl
@[simp] theorem State.tick_left (s : State) (rest : List HostEvent) : (s.tick rest).left = s.left - 1 := rfl
@[simp] theorem State.tick_inbox (s : State) (rest : List HostEvent) : (s.tick rest).inbox = rest := rfl
@[simp] theorem State.tick_bus (s : State) (rest : List HostEvent) : (s.tick rest).bus = s.bus := rfl
@[simp] theorem State.tick_draws (s : State) (rest : List HostEvent) : (s.tick rest).draws = s.draws := rfl
@[simp] theorem State.tick_epoch (s : State) (rest : List HostEvent) : (s.tick rest).epoch = s.epoch := rfl

/-! ### State.respond -/

@[simp] theorem State.respond_cfg (s : State) (r : BusResponse) : (s.respond r).cfg = s.cfg := rfl
@[simp] theorem State.respond_ie (s : State) (r : BusResponse) : (s.respond r).ie = s.ie := rfl
@[simp] theorem State.respond_tsrc (s : State) (r : BusResponse) : (s.respond r).tsrc = s.tsrc := rfl
@[simp] theorem State.respond_busy (s : State) (r : BusResponse) : (s.respond r).busy = s.busy := rfl
@[simp] theorem State.respond_done (s : State) (r : BusResponse) : (s.respond r).done = s.done := rfl
@[simp] theorem State.respond_wign (s : State) (r : BusResponse) : (s.respond r).wign = s.wign := rfl
@[simp] theorem State.respond_err (s : State) (r : BusResponse) : (s.respond r).err = s.err := rfl
@[simp] theorem State.respond_cmd (s : State) (r : BusResponse) : (s.respond r).cmd = s.cmd := rfl
@[simp] theorem State.respond_regs (s : State) (r : BusResponse) : (s.respond r).regs = s.regs := rfl
@[simp] theorem State.respond_prng (s : State) (r : BusResponse) : (s.respond r).prng = s.prng := rfl
@[simp] theorem State.respond_res (s : State) (r : BusResponse) : (s.respond r).res = s.res := rfl
@[simp] theorem State.respond_outLen (s : State) (r : BusResponse) : (s.respond r).outLen = s.outLen := rfl
@[simp] theorem State.respond_buf (s : State) (r : BusResponse) : (s.respond r).buf = s.buf := rfl
@[simp] theorem State.respond_pw (s : State) (r : BusResponse) : (s.respond r).pw = s.pw := rfl
@[simp] theorem State.respond_ks (s : State) (r : BusResponse) : (s.respond r).ks = s.ks := rfl
@[simp] theorem State.respond_op (s : State) (r : BusResponse) : (s.respond r).op = s.op := rfl
@[simp] theorem State.respond_left (s : State) (r : BusResponse) : (s.respond r).left = s.left := rfl
@[simp] theorem State.respond_inbox (s : State) (r : BusResponse) : (s.respond r).inbox = s.inbox := rfl
@[simp] theorem State.respond_bus (s : State) (r : BusResponse) : (s.respond r).bus = r := rfl
@[simp] theorem State.respond_draws (s : State) (r : BusResponse) : (s.respond r).draws = s.draws := rfl
@[simp] theorem State.respond_epoch (s : State) (r : BusResponse) : (s.respond r).epoch = s.epoch := rfl

/-! ### State.oneDraw -/

@[simp] theorem State.oneDraw_cfg (s : State) : (s.oneDraw).cfg = s.cfg := rfl
@[simp] theorem State.oneDraw_ie (s : State) : (s.oneDraw).ie = s.ie := rfl
@[simp] theorem State.oneDraw_tsrc (s : State) : (s.oneDraw).tsrc = s.tsrc := rfl
@[simp] theorem State.oneDraw_busy (s : State) : (s.oneDraw).busy = s.busy := rfl
@[simp] theorem State.oneDraw_done (s : State) : (s.oneDraw).done = s.done := rfl
@[simp] theorem State.oneDraw_wign (s : State) : (s.oneDraw).wign = s.wign := rfl
@[simp] theorem State.oneDraw_err (s : State) : (s.oneDraw).err = s.err := rfl
@[simp] theorem State.oneDraw_cmd (s : State) : (s.oneDraw).cmd = s.cmd := rfl
@[simp] theorem State.oneDraw_regs (s : State) : (s.oneDraw).regs = s.regs := rfl
@[simp] theorem State.oneDraw_prng (s : State) : (s.oneDraw).prng = s.prng := rfl
@[simp] theorem State.oneDraw_res (s : State) : (s.oneDraw).res = s.res := rfl
@[simp] theorem State.oneDraw_outLen (s : State) : (s.oneDraw).outLen = s.outLen := rfl
@[simp] theorem State.oneDraw_buf (s : State) : (s.oneDraw).buf = s.buf := rfl
@[simp] theorem State.oneDraw_pw (s : State) : (s.oneDraw).pw = s.pw := rfl
@[simp] theorem State.oneDraw_ks (s : State) : (s.oneDraw).ks = s.ks := rfl
@[simp] theorem State.oneDraw_op (s : State) : (s.oneDraw).op = s.op := rfl
@[simp] theorem State.oneDraw_left (s : State) : (s.oneDraw).left = s.left := rfl
@[simp] theorem State.oneDraw_inbox (s : State) : (s.oneDraw).inbox = s.inbox := rfl
@[simp] theorem State.oneDraw_bus (s : State) : (s.oneDraw).bus = s.bus := rfl
@[simp] theorem State.oneDraw_draws (s : State) : (s.oneDraw).draws = s.draws + 1 := rfl
@[simp] theorem State.oneDraw_epoch (s : State) : (s.oneDraw).epoch = s.epoch := rfl

/-! ### State.setWign -/

@[simp] theorem State.setWign_cfg (s : State) : (s.setWign).cfg = s.cfg := rfl
@[simp] theorem State.setWign_ie (s : State) : (s.setWign).ie = s.ie := rfl
@[simp] theorem State.setWign_tsrc (s : State) : (s.setWign).tsrc = s.tsrc := rfl
@[simp] theorem State.setWign_busy (s : State) : (s.setWign).busy = s.busy := rfl
@[simp] theorem State.setWign_done (s : State) : (s.setWign).done = s.done := rfl
@[simp] theorem State.setWign_wign (s : State) : (s.setWign).wign = true := rfl
@[simp] theorem State.setWign_err (s : State) : (s.setWign).err = s.err := rfl
@[simp] theorem State.setWign_cmd (s : State) : (s.setWign).cmd = s.cmd := rfl
@[simp] theorem State.setWign_regs (s : State) : (s.setWign).regs = s.regs := rfl
@[simp] theorem State.setWign_prng (s : State) : (s.setWign).prng = s.prng := rfl
@[simp] theorem State.setWign_res (s : State) : (s.setWign).res = s.res := rfl
@[simp] theorem State.setWign_outLen (s : State) : (s.setWign).outLen = s.outLen := rfl
@[simp] theorem State.setWign_buf (s : State) : (s.setWign).buf = s.buf := rfl
@[simp] theorem State.setWign_pw (s : State) : (s.setWign).pw = s.pw := rfl
@[simp] theorem State.setWign_ks (s : State) : (s.setWign).ks = s.ks := rfl
@[simp] theorem State.setWign_op (s : State) : (s.setWign).op = s.op := rfl
@[simp] theorem State.setWign_left (s : State) : (s.setWign).left = s.left := rfl
@[simp] theorem State.setWign_inbox (s : State) : (s.setWign).inbox = s.inbox := rfl
@[simp] theorem State.setWign_bus (s : State) : (s.setWign).bus = s.bus := rfl
@[simp] theorem State.setWign_draws (s : State) : (s.setWign).draws = s.draws := rfl
@[simp] theorem State.setWign_epoch (s : State) : (s.setWign).epoch = s.epoch := rfl

/-! ### State.writeStatus -/

@[simp] theorem State.writeStatus_cfg (s : State) (v : Word) : (s.writeStatus v).cfg = s.cfg := rfl
@[simp] theorem State.writeStatus_ie (s : State) (v : Word) : (s.writeStatus v).ie = s.ie := rfl
@[simp] theorem State.writeStatus_tsrc (s : State) (v : Word) : (s.writeStatus v).tsrc = s.tsrc := rfl
@[simp] theorem State.writeStatus_busy (s : State) (v : Word) : (s.writeStatus v).busy = s.busy := rfl
@[simp] theorem State.writeStatus_done (s : State) (v : Word) : (s.writeStatus v).done = (s.done && !v.getLsbD 1) := rfl
@[simp] theorem State.writeStatus_wign (s : State) (v : Word) : (s.writeStatus v).wign = (s.wign && !v.getLsbD 2) := rfl
@[simp] theorem State.writeStatus_err (s : State) (v : Word) : (s.writeStatus v).err = s.err := rfl
@[simp] theorem State.writeStatus_cmd (s : State) (v : Word) : (s.writeStatus v).cmd = s.cmd := rfl
@[simp] theorem State.writeStatus_regs (s : State) (v : Word) : (s.writeStatus v).regs = s.regs := rfl
@[simp] theorem State.writeStatus_prng (s : State) (v : Word) : (s.writeStatus v).prng = s.prng := rfl
@[simp] theorem State.writeStatus_res (s : State) (v : Word) : (s.writeStatus v).res = s.res := rfl
@[simp] theorem State.writeStatus_outLen (s : State) (v : Word) : (s.writeStatus v).outLen = s.outLen := rfl
@[simp] theorem State.writeStatus_buf (s : State) (v : Word) : (s.writeStatus v).buf = s.buf := rfl
@[simp] theorem State.writeStatus_pw (s : State) (v : Word) : (s.writeStatus v).pw = s.pw := rfl
@[simp] theorem State.writeStatus_ks (s : State) (v : Word) : (s.writeStatus v).ks = s.ks := rfl
@[simp] theorem State.writeStatus_op (s : State) (v : Word) : (s.writeStatus v).op = s.op := rfl
@[simp] theorem State.writeStatus_left (s : State) (v : Word) : (s.writeStatus v).left = s.left := rfl
@[simp] theorem State.writeStatus_inbox (s : State) (v : Word) : (s.writeStatus v).inbox = s.inbox := rfl
@[simp] theorem State.writeStatus_bus (s : State) (v : Word) : (s.writeStatus v).bus = s.bus := rfl
@[simp] theorem State.writeStatus_draws (s : State) (v : Word) : (s.writeStatus v).draws = s.draws := rfl
@[simp] theorem State.writeStatus_epoch (s : State) (v : Word) : (s.writeStatus v).epoch = s.epoch := rfl

/-! ### State.setMem -/

@[simp] theorem State.setMem_cfg (s : State) (id : MemId) (m : Memory) : (s.setMem id m).cfg = s.cfg := by cases id <;> rfl
@[simp] theorem State.setMem_ie (s : State) (id : MemId) (m : Memory) : (s.setMem id m).ie = s.ie := by cases id <;> rfl
@[simp] theorem State.setMem_tsrc (s : State) (id : MemId) (m : Memory) : (s.setMem id m).tsrc = s.tsrc := by cases id <;> rfl
@[simp] theorem State.setMem_busy (s : State) (id : MemId) (m : Memory) : (s.setMem id m).busy = s.busy := by cases id <;> rfl
@[simp] theorem State.setMem_done (s : State) (id : MemId) (m : Memory) : (s.setMem id m).done = s.done := by cases id <;> rfl
@[simp] theorem State.setMem_wign (s : State) (id : MemId) (m : Memory) : (s.setMem id m).wign = s.wign := by cases id <;> rfl
@[simp] theorem State.setMem_err (s : State) (id : MemId) (m : Memory) : (s.setMem id m).err = s.err := by cases id <;> rfl
@[simp] theorem State.setMem_cmd (s : State) (id : MemId) (m : Memory) : (s.setMem id m).cmd = s.cmd := by cases id <;> rfl
@[simp] theorem State.setMem_regs (s : State) (id : MemId) (m : Memory) : (s.setMem id m).regs = s.regs := by cases id <;> rfl
@[simp] theorem State.setMem_prng (s : State) (id : MemId) (m : Memory) : (s.setMem id m).prng = s.prng := by cases id <;> rfl
@[simp] theorem State.setMem_res (s : State) (id : MemId) (m : Memory) : (s.setMem id m).res = s.res := by cases id <;> rfl
@[simp] theorem State.setMem_outLen (s : State) (id : MemId) (m : Memory) : (s.setMem id m).outLen = s.outLen := by cases id <;> rfl
@[simp] theorem State.setMem_op (s : State) (id : MemId) (m : Memory) : (s.setMem id m).op = s.op := by cases id <;> rfl
@[simp] theorem State.setMem_left (s : State) (id : MemId) (m : Memory) : (s.setMem id m).left = s.left := by cases id <;> rfl
@[simp] theorem State.setMem_inbox (s : State) (id : MemId) (m : Memory) : (s.setMem id m).inbox = s.inbox := by cases id <;> rfl
@[simp] theorem State.setMem_bus (s : State) (id : MemId) (m : Memory) : (s.setMem id m).bus = s.bus := by cases id <;> rfl
@[simp] theorem State.setMem_draws (s : State) (id : MemId) (m : Memory) : (s.setMem id m).draws = s.draws := by cases id <;> rfl
@[simp] theorem State.setMem_epoch (s : State) (id : MemId) (m : Memory) : (s.setMem id m).epoch = s.epoch := by cases id <;> rfl

/-! ### State.store -/

@[simp] theorem State.store_cfg (s : State) (id : MemId) (a : Nat) (bs : List Byte) : (s.store id a bs).cfg = s.cfg := by cases id <;> rfl
@[simp] theorem State.store_ie (s : State) (id : MemId) (a : Nat) (bs : List Byte) : (s.store id a bs).ie = s.ie := by cases id <;> rfl
@[simp] theorem State.store_tsrc (s : State) (id : MemId) (a : Nat) (bs : List Byte) : (s.store id a bs).tsrc = s.tsrc := by cases id <;> rfl
@[simp] theorem State.store_busy (s : State) (id : MemId) (a : Nat) (bs : List Byte) : (s.store id a bs).busy = s.busy := by cases id <;> rfl
@[simp] theorem State.store_done (s : State) (id : MemId) (a : Nat) (bs : List Byte) : (s.store id a bs).done = s.done := by cases id <;> rfl
@[simp] theorem State.store_wign (s : State) (id : MemId) (a : Nat) (bs : List Byte) : (s.store id a bs).wign = s.wign := by cases id <;> rfl
@[simp] theorem State.store_err (s : State) (id : MemId) (a : Nat) (bs : List Byte) : (s.store id a bs).err = s.err := by cases id <;> rfl
@[simp] theorem State.store_cmd (s : State) (id : MemId) (a : Nat) (bs : List Byte) : (s.store id a bs).cmd = s.cmd := by cases id <;> rfl
@[simp] theorem State.store_regs (s : State) (id : MemId) (a : Nat) (bs : List Byte) : (s.store id a bs).regs = s.regs := by cases id <;> rfl
@[simp] theorem State.store_prng (s : State) (id : MemId) (a : Nat) (bs : List Byte) : (s.store id a bs).prng = s.prng := by cases id <;> rfl
@[simp] theorem State.store_res (s : State) (id : MemId) (a : Nat) (bs : List Byte) : (s.store id a bs).res = s.res := by cases id <;> rfl
@[simp] theorem State.store_outLen (s : State) (id : MemId) (a : Nat) (bs : List Byte) : (s.store id a bs).outLen = s.outLen := by cases id <;> rfl
@[simp] theorem State.store_op (s : State) (id : MemId) (a : Nat) (bs : List Byte) : (s.store id a bs).op = s.op := by cases id <;> rfl
@[simp] theorem State.store_left (s : State) (id : MemId) (a : Nat) (bs : List Byte) : (s.store id a bs).left = s.left := by cases id <;> rfl
@[simp] theorem State.store_inbox (s : State) (id : MemId) (a : Nat) (bs : List Byte) : (s.store id a bs).inbox = s.inbox := by cases id <;> rfl
@[simp] theorem State.store_bus (s : State) (id : MemId) (a : Nat) (bs : List Byte) : (s.store id a bs).bus = s.bus := by cases id <;> rfl
@[simp] theorem State.store_draws (s : State) (id : MemId) (a : Nat) (bs : List Byte) : (s.store id a bs).draws = s.draws := by cases id <;> rfl
@[simp] theorem State.store_epoch (s : State) (id : MemId) (a : Nat) (bs : List Byte) : (s.store id a bs).epoch = s.epoch := by cases id <;> rfl

/-! ### State.scramble -/

@[simp] theorem State.scramble_cfg (s : State) (id : MemId) (a n : Nat) : (s.scramble id a n).cfg = s.cfg := by cases id <;> rfl
@[simp] theorem State.scramble_ie (s : State) (id : MemId) (a n : Nat) : (s.scramble id a n).ie = s.ie := by cases id <;> rfl
@[simp] theorem State.scramble_tsrc (s : State) (id : MemId) (a n : Nat) : (s.scramble id a n).tsrc = s.tsrc := by cases id <;> rfl
@[simp] theorem State.scramble_busy (s : State) (id : MemId) (a n : Nat) : (s.scramble id a n).busy = s.busy := by cases id <;> rfl
@[simp] theorem State.scramble_done (s : State) (id : MemId) (a n : Nat) : (s.scramble id a n).done = s.done := by cases id <;> rfl
@[simp] theorem State.scramble_wign (s : State) (id : MemId) (a n : Nat) : (s.scramble id a n).wign = s.wign := by cases id <;> rfl
@[simp] theorem State.scramble_err (s : State) (id : MemId) (a n : Nat) : (s.scramble id a n).err = s.err := by cases id <;> rfl
@[simp] theorem State.scramble_cmd (s : State) (id : MemId) (a n : Nat) : (s.scramble id a n).cmd = s.cmd := by cases id <;> rfl
@[simp] theorem State.scramble_regs (s : State) (id : MemId) (a n : Nat) : (s.scramble id a n).regs = s.regs := by cases id <;> rfl
@[simp] theorem State.scramble_prng (s : State) (id : MemId) (a n : Nat) : (s.scramble id a n).prng = s.prng := by cases id <;> rfl
@[simp] theorem State.scramble_res (s : State) (id : MemId) (a n : Nat) : (s.scramble id a n).res = s.res := by cases id <;> rfl
@[simp] theorem State.scramble_outLen (s : State) (id : MemId) (a n : Nat) : (s.scramble id a n).outLen = s.outLen := by cases id <;> rfl
@[simp] theorem State.scramble_op (s : State) (id : MemId) (a n : Nat) : (s.scramble id a n).op = s.op := by cases id <;> rfl
@[simp] theorem State.scramble_left (s : State) (id : MemId) (a n : Nat) : (s.scramble id a n).left = s.left := by cases id <;> rfl
@[simp] theorem State.scramble_inbox (s : State) (id : MemId) (a n : Nat) : (s.scramble id a n).inbox = s.inbox := by cases id <;> rfl
@[simp] theorem State.scramble_bus (s : State) (id : MemId) (a n : Nat) : (s.scramble id a n).bus = s.bus := by cases id <;> rfl
@[simp] theorem State.scramble_draws (s : State) (id : MemId) (a n : Nat) : (s.scramble id a n).draws = s.draws + n := by cases id <;> rfl
@[simp] theorem State.scramble_epoch (s : State) (id : MemId) (a n : Nat) : (s.scramble id a n).epoch = s.epoch := by cases id <;> rfl

/-! ### State.powerOn -/

@[simp] theorem State.powerOn_cfg (s : State) : (s.powerOn).cfg = s.cfg := rfl
@[simp] theorem State.powerOn_ie (s : State) : (s.powerOn).ie = false := rfl
@[simp] theorem State.powerOn_tsrc (s : State) : (s.powerOn).tsrc = false := rfl
@[simp] theorem State.powerOn_busy (s : State) : (s.powerOn).busy = false := rfl
@[simp] theorem State.powerOn_done (s : State) : (s.powerOn).done = false := rfl
@[simp] theorem State.powerOn_wign (s : State) : (s.powerOn).wign = false := rfl
@[simp] theorem State.powerOn_err (s : State) : (s.powerOn).err = 0 := rfl
@[simp] theorem State.powerOn_cmd (s : State) : (s.powerOn).cmd = 0 := rfl
@[simp] theorem State.powerOn_regs (s : State) : (s.powerOn).regs = Regs.reset := rfl
@[simp] theorem State.powerOn_prng (s : State) : (s.powerOn).prng = 0 := rfl
@[simp] theorem State.powerOn_res (s : State) : (s.powerOn).res = 0 := rfl
@[simp] theorem State.powerOn_outLen (s : State) : (s.powerOn).outLen = 0 := rfl
@[simp] theorem State.powerOn_buf (s : State) : (s.powerOn).buf = [] := rfl
@[simp] theorem State.powerOn_pw (s : State) : (s.powerOn).pw = [] := rfl
@[simp] theorem State.powerOn_ks (s : State) : (s.powerOn).ks = [] := rfl
@[simp] theorem State.powerOn_op (s : State) : (s.powerOn).op = Operands.idle := rfl
@[simp] theorem State.powerOn_left (s : State) : (s.powerOn).left = 0 := rfl
@[simp] theorem State.powerOn_inbox (s : State) : (s.powerOn).inbox = s.inbox := rfl
@[simp] theorem State.powerOn_bus (s : State) : (s.powerOn).bus = .idle := rfl
@[simp] theorem State.powerOn_draws (s : State) : (s.powerOn).draws = s.draws := rfl
@[simp] theorem State.powerOn_epoch (s : State) : (s.powerOn).epoch = s.epoch + 1 := rfl

/-! ### State.softReset -/

@[simp] theorem State.softReset_cfg (s : State) : (s.softReset).cfg = s.cfg := rfl
@[simp] theorem State.softReset_ie (s : State) : (s.softReset).ie = false := rfl
@[simp] theorem State.softReset_tsrc (s : State) : (s.softReset).tsrc = false := rfl
@[simp] theorem State.softReset_busy (s : State) : (s.softReset).busy = false := rfl
@[simp] theorem State.softReset_done (s : State) : (s.softReset).done = false := rfl
@[simp] theorem State.softReset_wign (s : State) : (s.softReset).wign = false := rfl
@[simp] theorem State.softReset_err (s : State) : (s.softReset).err = 0 := rfl
@[simp] theorem State.softReset_cmd (s : State) : (s.softReset).cmd = 0 := rfl
@[simp] theorem State.softReset_regs (s : State) : (s.softReset).regs = Regs.reset := rfl
@[simp] theorem State.softReset_prng (s : State) : (s.softReset).prng = 0 := rfl
@[simp] theorem State.softReset_res (s : State) : (s.softReset).res = 0 := rfl
@[simp] theorem State.softReset_outLen (s : State) : (s.softReset).outLen = 0 := rfl
@[simp] theorem State.softReset_buf (s : State) : (s.softReset).buf = s.abort.buf := rfl
@[simp] theorem State.softReset_pw (s : State) : (s.softReset).pw = s.abort.pw := rfl
@[simp] theorem State.softReset_ks (s : State) : (s.softReset).ks = s.abort.ks := rfl
@[simp] theorem State.softReset_op (s : State) : (s.softReset).op = Operands.idle := rfl
@[simp] theorem State.softReset_left (s : State) : (s.softReset).left = 0 := rfl
@[simp] theorem State.softReset_inbox (s : State) : (s.softReset).inbox = s.inbox := rfl
@[simp] theorem State.softReset_bus (s : State) : (s.softReset).bus = s.bus := rfl
@[simp] theorem State.softReset_draws (s : State) : (s.softReset).draws = s.abort.draws := rfl
@[simp] theorem State.softReset_epoch (s : State) : (s.softReset).epoch = s.epoch := rfl

/-! ### The memory picked by its name -/

@[simp] theorem State.setMem_mem (s : State) (id j : MemId) (m : Memory) :
    (s.setMem id m).mem j = if j = id then m else s.mem j := by
  cases id <;> cases j <;> rfl

theorem State.store_mem (s : State) (id j : MemId) (a : Nat) (bs : List Byte) :
    (s.store id a bs).mem j = if j = id then (s.mem id).store a bs else s.mem j :=
  State.setMem_mem s id j _

theorem State.scramble_mem (s : State) (id j : MemId) (a n : Nat) :
    (s.scramble id a n).mem j = if j = id then (s.mem id).store a (s.freeBytes n) else s.mem j := by
  cases id <;> cases j <;> rfl

@[simp] theorem State.complete_mem (s : State) (e : ErrCode) (id : MemId) : (s.complete e).mem id = s.mem id := by
  cases id <;> rfl

@[simp] theorem State.raise_mem (s : State) (e : ErrCode) (id : MemId) : (s.raise e).mem id = s.mem id := by
  cases id <;> rfl

@[simp] theorem State.raiseFramed_mem (s : State) (e : ErrCode) (id : MemId) :
    (s.raiseFramed e).mem id = s.mem id := by
  cases id <;> rfl

@[simp] theorem State.drawResult_mem (s : State) (r p : DWord) (id : MemId) : (s.drawResult r p).mem id = s.mem id := by
  cases id <;> rfl

@[simp] theorem State.accept_mem (s : State) (w : Word) (n : Nat) (id : MemId) : (s.accept w n).mem id = s.mem id := by
  cases id <;> rfl

@[simp] theorem State.tick_mem (s : State) (rest : List HostEvent) (id : MemId) : (s.tick rest).mem id = s.mem id := by
  cases id <;> rfl

@[simp] theorem State.respond_mem (s : State) (r : BusResponse) (id : MemId) : (s.respond r).mem id = s.mem id := by
  cases id <;> rfl

@[simp] theorem State.oneDraw_mem (s : State) (id : MemId) : s.oneDraw.mem id = s.mem id := by
  cases id <;> rfl

@[simp] theorem State.setWign_mem (s : State) (id : MemId) : s.setWign.mem id = s.mem id := by
  cases id <;> rfl

@[simp] theorem State.writeStatus_mem (s : State) (v : Word) (id : MemId) : (s.writeStatus v).mem id = s.mem id := by
  cases id <;> rfl

end Sys2Proof.Machine
end

