-- ==== Sys2Proof/Laws/Memory.lean ====
section
/-! SUPPORT. Byte memories: what a store does to every later read, and that every operation keeps the canonical form. -/

namespace Sys2Proof.Machine

@[simp] theorem Memory.get?_nil (a : Nat) : Memory.get? [] a = none := rfl

theorem Memory.get?_cons (c : Host.Cell) (m : Memory) (a : Nat) :
    Memory.get? (c :: m) a = if c.1 = a then some c.2 else Memory.get? m a := rfl

theorem Memory.get?_append (m n : Memory) (a : Nat) :
    Memory.get? (m ++ n) a = (Memory.get? m a).or (Memory.get? n a) := by
  induction m with
  | nil => simp
  | cons c m ih => by_cases h : c.1 = a <;> simp [Memory.get?_cons, h, ih]

/-- Dropping cells at other indices does not change what is read. -/
theorem Memory.get?_filter_of_pos (m : Memory) (p : Nat → Bool) (a : Nat) (h : p a = true) :
    Memory.get? (m.filter (fun c => p c.1)) a = Memory.get? m a := by
  induction m with
  | nil => rfl
  | cons c m ih =>
    by_cases hc : p c.1 = true
    · rw [List.filter_cons_of_pos (by simpa using hc), Memory.get?_cons, Memory.get?_cons, ih]
    · rw [List.filter_cons_of_neg (by simpa using hc), ih, Memory.get?_cons]
      have : c.1 ≠ a := fun e => hc (e ▸ h)
      simp [this]

/-- A dropped index reads as unlisted. -/
theorem Memory.get?_filter_of_neg (m : Memory) (p : Nat → Bool) (a : Nat) (h : p a = false) :
    Memory.get? (m.filter (fun c => p c.1)) a = none := by
  induction m with
  | nil => rfl
  | cons c m ih =>
    by_cases hc : p c.1 = true
    · rw [List.filter_cons_of_pos (by simpa using hc), Memory.get?_cons, ih]
      have : c.1 ≠ a := fun e => by rw [e, h] at hc; cases hc
      simp [this]
    · rw [List.filter_cons_of_neg (by simpa using hc), ih]

theorem get?_cellsFrom (a : Nat) (bs : List Byte) (x : Nat) :
    Memory.get? (cellsFrom a bs) x = if a ≤ x then bs[x - a]? else none := by
  induction bs generalizing a with
  | nil => simp [cellsFrom]
  | cons b bs ih =>
    rw [cellsFrom, Memory.get?_cons, ih]
    by_cases h : a = x
    · simp [h]
    · by_cases hx : a + 1 ≤ x
      · have h2 : a ≤ x := by omega
        have h3 : x - a = (x - (a + 1)) + 1 := by omega
        simp [h, hx, h2, h3]
      · have h2 : ¬ a ≤ x := by omega
        simp [h, hx, h2]

/-- Everything a store does: the stored span reads as the stored bytes, every other index as before. -/
theorem Memory.get?_store (m : Memory) (a : Nat) (bs : List Byte) (x : Nat) :
    (m.store a bs).get? x = if a ≤ x ∧ x < a + bs.length then bs[x - a]? else m.get? x := by
  have below := Memory.get?_filter_of_pos m (fun k => decide (k < a)) x
  have notBelow := Memory.get?_filter_of_neg m (fun k => decide (k < a)) x
  have above := Memory.get?_filter_of_pos m (fun k => decide (a + bs.length ≤ k)) x
  have notAbove := Memory.get?_filter_of_neg m (fun k => decide (a + bs.length ≤ k)) x
  unfold Memory.store
  rw [Memory.get?_append, Memory.get?_append, get?_cellsFrom]
  by_cases h1 : x < a
  · have h2 : ¬ a ≤ x := by omega
    have h3 : ¬ a + bs.length ≤ x := by omega
    rw [below (by simpa using h1), notAbove (by simpa using h3)]
    simp [h2]
  · have h2 : a ≤ x := by omega
    rw [notBelow (by simpa using h1)]
    by_cases h3 : a + bs.length ≤ x
    · have h4 : bs[x - a]? = none := by rw [List.getElem?_eq_none_iff]; omega
      have h5 : ¬ x < a + bs.length := by omega
      rw [above (by simpa using h3)]
      simp [h2, h4, h5]
    · have h5 : x < a + bs.length := by omega
      rw [notAbove (by simpa using h3)]
      simp [h2, h5]

theorem mem_cellsFrom {a : Nat} {bs : List Byte} {c : Host.Cell} (h : c ∈ cellsFrom a bs) :
    a ≤ c.1 ∧ c.1 < a + bs.length := by
  induction bs generalizing a with
  | nil => simp [cellsFrom] at h
  | cons b bs ih =>
    simp only [cellsFrom, List.mem_cons] at h
    rcases h with rfl | h
    · simp
    · have := ih h
      simp only [List.length_cons]
      omega

theorem cellsFrom_wf (a : Nat) (bs : List Byte) : Memory.wf (cellsFrom a bs) := by
  induction bs generalizing a with
  | nil => exact List.Pairwise.nil
  | cons b bs ih =>
    refine List.Pairwise.cons (fun c h => ?_) (ih (a + 1))
    have := (mem_cellsFrom h).1
    simp only
    omega

/-- A store keeps the canonical form. -/
theorem Memory.store_wf {m : Memory} (h : m.wf) (a : Nat) (bs : List Byte) : (m.store a bs).wf := by
  unfold Memory.store Memory.wf
  rw [List.append_assoc, List.pairwise_append, List.pairwise_append]
  refine ⟨List.Pairwise.filter _ h, ⟨cellsFrom_wf a bs, List.Pairwise.filter _ h, ?_⟩, ?_⟩
  · intro c hc d hd
    have h1 := mem_cellsFrom hc
    have h2 := (List.mem_filter.mp hd).2
    simp only [decide_eq_true_eq] at h2
    omega
  · intro c hc d hd
    have h1 := (List.mem_filter.mp hc).2
    simp only [decide_eq_true_eq] at h1
    rcases List.mem_append.mp hd with hd | hd
    · have := mem_cellsFrom hd
      omega
    · have h2 := (List.mem_filter.mp hd).2
      simp only [decide_eq_true_eq] at h2
      omega

/-- A store inside the first `n` indices lists nothing beyond them. -/
theorem Memory.store_bounded {m : Memory} {n a : Nat} {bs : List Byte} (h : ∀ c ∈ m, c.1 < n)
    (hs : a + bs.length ≤ n) : ∀ c ∈ m.store a bs, c.1 < n := by
  intro c hc
  unfold Memory.store at hc
  rcases List.mem_append.mp hc with hc | hc
  · rcases List.mem_append.mp hc with hc | hc
    · exact h c (List.mem_of_mem_filter hc)
    · have := mem_cellsFrom hc
      omega
  · exact h c (List.mem_of_mem_filter hc)

/-! ### Bytes of a state -/

/-- Everything a store to one of the memories does to every byte. -/
theorem State.byte_store (s : State) (id j : MemId) (a : Nat) (bs : List Byte) (x : Nat) :
    (s.store id a bs).byte j x =
      if j = id ∧ a ≤ x ∧ x < a + bs.length then bs.getD (x - a) 0 else s.byte j x := by
  unfold State.byte
  rw [State.store_mem, State.store_epoch]
  by_cases hj : j = id
  · subst hj
    simp only [if_true, true_and, Memory.get?_store]
    by_cases h : a ≤ x ∧ x < a + bs.length
    · have hx : x - a < bs.length := by omega
      simp [h, hx]
    · simp [h]
  · simp [hj]

@[simp] theorem State.freeBytes_length (s : State) (n : Nat) : (s.freeBytes n).length = n := by
  simp [State.freeBytes]

/-- Scrambling a span leaves every byte outside it. -/
theorem State.byte_scramble_of_outside (s : State) (id j : MemId) (a n x : Nat)
    (h : ¬ (j = id ∧ a ≤ x ∧ x < a + n)) : (s.scramble id a n).byte j x = s.byte j x := by
  have := State.byte_store s id j a (s.freeBytes n) x
  rw [State.freeBytes_length, if_neg h] at this
  rw [← this]
  cases id <;> cases j <;> rfl

@[simp] theorem State.bytes_length (s : State) (id : MemId) (a n : Nat) : (s.bytes id a n).length = n := by
  simp [State.bytes]

theorem State.bytes_getElem? (s : State) (id : MemId) (a n k : Nat) :
    (s.bytes id a n)[k]? = if k < n then some (s.byte id (a + k)) else none := by
  by_cases h : k < n <;> simp [State.bytes, h]

/-- A state whose memories and epoch are the same reads the same bytes. -/
theorem State.byte_congr {s t : State} {id : MemId} (hm : t.mem id = s.mem id) (he : t.epoch = s.epoch) (a : Nat) :
    t.byte id a = s.byte id a := by
  unfold State.byte
  rw [hm, he]

@[simp] theorem State.byte_complete (s : State) (e : ErrCode) (id : MemId) (a : Nat) :
    (s.complete e).byte id a = s.byte id a :=
  State.byte_congr (State.complete_mem s e id) rfl a

@[simp] theorem State.byte_raiseFramed (s : State) (e : ErrCode) (id : MemId) (a : Nat) :
    (s.raiseFramed e).byte id a = s.byte id a :=
  State.byte_congr (State.raiseFramed_mem s e id) rfl a

/-- The memories of a state are in canonical form right after reset. -/
theorem resetOf_memories_wf (p : Params) (id : MemId) : ((State.resetOf p).mem id).wf := by
  cases id <;> exact List.Pairwise.nil

/-- Storing to a memory keeps the canonical form of all three. -/
theorem State.store_keeps_wf {s : State} (h : ∀ j, (s.mem j).wf) (id : MemId) (a : Nat) (bs : List Byte) :
    ∀ j, ((s.store id a bs).mem j).wf := by
  intro j
  rw [State.store_mem]
  split
  · exact Memory.store_wf (h id) a bs
  · exact h j

/-- Scrambling keeps the canonical form of all three memories. -/
theorem State.scramble_keeps_wf {s : State} (h : ∀ j, (s.mem j).wf) (id : MemId) (a n : Nat) :
    ∀ j, ((s.scramble id a n).mem j).wf := by
  intro j
  rw [State.scramble_mem]
  split
  · exact Memory.store_wf (h id) a _
  · exact h j

end Sys2Proof.Machine
end

