-- ==== Sys2Proof/Laws/Ops.lean ====
section
/-! SUPPORT. For each shared operation, one lemma that says everything it can do, and the lengths of the byte sequences the commands compute. -/

namespace Sys2Proof.Machine

/-! ### Byte sequences -/

@[simp] theorem leBytes_length (n v : Nat) : (leBytes n v).length = n := by
  induction n generalizing v with
  | zero => rfl
  | succ n ih => simp [leBytes, ih]

@[simp] theorem beBytes_length (n v : Nat) : (beBytes n v).length = n := by
  simp [beBytes]

/-- Writing a number in `n` bytes and reading it back keeps its low `8 n` bits. -/
theorem fromLe_leBytes (n v : Nat) : fromLe (leBytes n v) = v % 256 ^ n := by
  induction n generalizing v with
  | zero => simp [leBytes, fromLe, Nat.mod_one]
  | succ n ih =>
    rw [leBytes, fromLe, ih, BitVec.toNat_ofNat, pow_succ' 256 n, Nat.mod_mul]

theorem fromBe_beBytes (n v : Nat) : fromBe (beBytes n v) = v % 256 ^ n := by
  rw [fromBe, beBytes, List.reverse_reverse, fromLe_leBytes]

/-- A draw and the state after it. Rewrite with these rather than unfold, so that no proof evaluates `lcg`. -/
theorem nextU32_fst (s : DWord) : (nextU32 s).1 = (lcg s).extractLsb' 32 32 := rfl

theorem nextU32_snd (s : DWord) : (nextU32 s).2 = lcg s := rfl

/-- The bytes of the first draw, then those of the draws after it. -/
theorem drawBytes_succ (d : Nat) (s : DWord) :
    drawBytes (d + 1) s =
      (leBytes 4 ((lcg s).extractLsb' 32 32).toNat ++ (drawBytes d (lcg s)).1, (drawBytes d (lcg s)).2) := rfl

theorem drawBytes_succ_fst (d : Nat) (s : DWord) :
    (drawBytes (d + 1) s).1 = leBytes 4 ((lcg s).extractLsb' 32 32).toNat ++ (drawBytes d (lcg s)).1 := by
  rw [drawBytes_succ]

theorem drawBytes_succ_snd (d : Nat) (s : DWord) : (drawBytes (d + 1) s).2 = (drawBytes d (lcg s)).2 := by
  rw [drawBytes_succ]

theorem getRandomBytes_fst (s : DWord) (n : Nat) :
    (getRandomBytes s n).1 = (drawBytes ((n + 3) / 4) s).1.take n := by
  rw [getRandomBytes]

theorem getRandomBytes_snd (s : DWord) (n : Nat) : (getRandomBytes s n).2 = (drawBytes ((n + 3) / 4) s).2 := by
  rw [getRandomBytes]

@[simp] theorem drawBytes_length (d : Nat) (s : DWord) : (drawBytes d s).1.length = 4 * d := by
  induction d generalizing s with
  | zero => rfl
  | succ d ih => simp only [drawBytes, List.length_append, leBytes_length, ih]; omega

@[simp] theorem getRandomBytes_length (s : DWord) (n : Nat) : (getRandomBytes s n).1.length = n := by
  simp only [getRandomBytes, List.length_take, drawBytes_length]
  omega

@[simp] theorem keystream_length (m : Nat) (p : List Byte) : (keystream m p).length = m := by
  unfold keystream
  split <;> simp

@[simp] theorem swapAt_length (d : List Byte) (i j : Nat) : (swapAt d i j).length = d.length := by
  unfold swapAt
  split <;> simp

theorem applySwaps_nil (d : List Byte) : applySwaps [] d = d := rfl

theorem applySwaps_cons (p : Nat × Nat) (l : List (Nat × Nat)) (d : List Byte) :
    applySwaps (p :: l) d = applySwaps l (swapAt d p.1 p.2) := rfl

@[simp] theorem applySwaps_length (l : List (Nat × Nat)) (d : List Byte) : (applySwaps l d).length = d.length := by
  induction l generalizing d with
  | nil => rfl
  | cons p l ih => rw [applySwaps_cons, ih, swapAt_length]

@[simp] theorem shuffle_length (d : List Byte) (seed : DWord) (step : Nat) :
    (shuffle d seed step).length = d.length := applySwaps_length _ d

@[simp] theorem unshuffle_length (d : List Byte) (seed : DWord) (step : Nat) :
    (unshuffle d seed step).length = d.length := applySwaps_length _ d

/-! ### The region commands -/

/-- Everything SHUFFLE and UNSHUFFLE can do. -/
theorem permuteRegion_cases (f : List Byte → DWord → Nat → List Byte) (s : State) :
    (regionFits s.cfg s.op.regs = false ∧ permuteRegion f s = s.raise .range) ∨
    (regionFits s.cfg s.op.regs = true ∧ s.op.regs.step = 0 ∧ permuteRegion f s = s.raise .badStep) ∨
    (regionFits s.cfg s.op.regs = true ∧ s.op.regs.step ≠ 0 ∧ permuteRegion f s =
      (s.store .buf s.op.regs.addr.toNat (f s.region s.op.regs.seed s.op.regs.step.toNat)).complete .ok) := by
  unfold permuteRegion
  by_cases h : regionFits s.cfg s.op.regs = true
  · by_cases h0 : s.op.regs.step = 0
    · exact .inr (.inl ⟨h, h0, by rw [if_pos h, if_pos h0]⟩)
    · exact .inr (.inr ⟨h, h0, by rw [if_pos h, if_neg h0]⟩)
  · exact .inl ⟨by simpa using h, by rw [if_neg h]⟩

/-- Everything MIX and UNMIX can do. -/
theorem mixRegion_cases (f : Nat → List Byte → List Byte → List Byte) (s : State) :
    (regionFits s.cfg s.op.regs = false ∧ mixRegion f s = s.raise .range) ∨
    (regionFits s.cfg s.op.regs = true ∧ s.op.regs.len.toNat % s.msize ≠ 0 ∧
      mixRegion f s = s.raise .invalidTokenLength) ∨
    (regionFits s.cfg s.op.regs = true ∧ s.op.regs.len.toNat % s.msize = 0 ∧ mixRegion f s =
      (s.store .buf s.op.regs.addr.toNat (f s.msize s.region s.mixKey)).complete .ok) := by
  unfold mixRegion
  by_cases h : regionFits s.cfg s.op.regs = true
  · by_cases h0 : s.op.regs.len.toNat % s.msize = 0 <;> simp [h, h0]
  · simp [h]

/-! ### The other storing commands -/

/-- Everything PRNG_BYTES can do. -/
theorem execPrngBytes_cases (s : State) :
    (regionFits s.cfg s.op.regs = false ∧ execPrngBytes s = .next (s.raise .range)) ∨
    (regionFits s.cfg s.op.regs = true ∧ execPrngBytes s = .next
      ({ s.store .buf s.op.regs.addr.toNat (getRandomBytes s.prng s.op.regs.len.toNat).1 with
          prng := (getRandomBytes s.prng s.op.regs.len.toNat).2 }.complete .ok)) := by
  unfold execPrngBytes
  by_cases h : regionFits s.cfg s.op.regs = true
  · exact .inr ⟨h, by rw [if_pos h]⟩
  · exact .inl ⟨by simpa using h, by rw [if_neg h]⟩

/-- Everything KEYGEN can do. -/
theorem execKeygen_cases (s : State) :
    (passwordFits s.cfg s.op.regs = false ∧ execKeygen s = .next (s.raise .range)) ∨
    (passwordFits s.cfg s.op.regs = true ∧ execKeygen s = .next
      ((s.store .ks 0 (keystream s.msize s.password)).complete .ok)) := by
  unfold execKeygen
  by_cases h : passwordFits s.cfg s.op.regs = true
  · exact .inr ⟨h, by rw [if_pos h]⟩
  · exact .inl ⟨by simpa using h, by rw [if_neg h]⟩

/-- Everything ENCRYPT can do. -/
theorem execEncrypt_cases (s : State) :
    ((passwordFits s.cfg s.op.regs && regionFits s.cfg s.op.regs) = false ∧
      execEncrypt s = .next (s.raiseFramed .range)) ∨
    ((passwordFits s.cfg s.op.regs && regionFits s.cfg s.op.regs) = true ∧ tokenFits s.cfg s.op.regs = false ∧
      execEncrypt s = .next (s.raiseFramed .payloadTooLarge)) ∨
    ((passwordFits s.cfg s.op.regs && regionFits s.cfg s.op.regs) = true ∧ tokenFits s.cfg s.op.regs = true ∧
      execEncrypt s = .next ({ s.store .buf s.op.regs.addr.toNat s.token with
          outLen := BitVec.ofNat 32 (tokenLen s.msize s.op.regs.len.toNat) }.complete .ok)) := by
  unfold execEncrypt
  by_cases h : (passwordFits s.cfg s.op.regs && regionFits s.cfg s.op.regs) = true
  · by_cases ht : tokenFits s.cfg s.op.regs = true
    · exact .inr (.inr ⟨h, ht, by rw [if_pos h, if_pos ht]⟩)
    · exact .inr (.inl ⟨h, by simpa using ht, by rw [if_pos h, if_neg ht]⟩)
  · exact .inl ⟨by simpa using h, by rw [if_neg h]⟩

/-- Everything DECRYPT can do. -/
theorem execDecrypt_cases (s : State) :
    ((passwordFits s.cfg s.op.regs && regionFits s.cfg s.op.regs) = false ∧
      execDecrypt s = .next (s.raiseFramed .range)) ∨
    ((passwordFits s.cfg s.op.regs && regionFits s.cfg s.op.regs) = true ∧
      ((decryptToken s.msize s.region s.password = .tooShort ∨
        decryptToken s.msize s.region s.password = .notMultiple) ∧
          execDecrypt s = .next (s.raiseFramed .invalidTokenLength) ∨
       decryptToken s.msize s.region s.password = .badLength ∧ execDecrypt s = .next
          ((s.scramble .buf s.op.regs.addr.toNat s.op.regs.len.toNat).raiseFramed .invalidTokenLength) ∨
       ∃ p, decryptToken s.msize s.region s.password = .payload p ∧ execDecrypt s = .next
          ({ s.storePayload p with outLen := BitVec.ofNat 32 p.length }.complete .ok))) := by
  unfold execDecrypt
  by_cases h : (passwordFits s.cfg s.op.regs && regionFits s.cfg s.op.regs) = true
  · refine .inr ⟨h, ?_⟩
    rw [if_pos h]
    rcases hd : decryptToken s.msize s.region s.password with _ | _ | _ | p
    · exact .inl ⟨.inl rfl, rfl⟩
    · exact .inl ⟨.inr rfl, rfl⟩
    · exact .inr (.inl ⟨rfl, rfl⟩)
    · exact .inr (.inr ⟨p, rfl, rfl⟩)
  · exact .inl ⟨by simpa using h, by rw [if_neg h]⟩

/-! ### Reset -/

/-- Abandoning a command either changes nothing or scrambles the span it could write. -/
theorem abort_cases (s : State) :
    (s.abortSpan = none ∧ s.abort = s) ∨
    (∃ id a n, s.abortSpan = some (id, a, n) ∧ s.abort = s.scramble id a n) := by
  unfold State.abort
  rcases h : s.abortSpan with _ | ⟨id, a, n⟩
  · exact .inl ⟨rfl, rfl⟩
  · exact .inr ⟨id, a, n, rfl, rfl⟩

/-- Nothing is abandoned while the engine is idle. -/
theorem abort_of_idle {s : State} (h : s.busy = false) : s.abort = s := by
  simp [State.abort, State.abortSpan, h]

/-- PW is never part of what a command could write. -/
theorem abortRegion_ne_pw (p : Params) (r : Regs) (i : Instr) (a n : Nat) :
    abortRegion p r i ≠ some (.pw, a, n) := by
  cases i <;> simp [abortRegion]

@[simp] theorem abort_pw (s : State) : s.abort.pw = s.pw := by
  rcases abort_cases s with ⟨-, h⟩ | ⟨id, a, n, hs, h⟩
  · rw [h]
  · rw [h]
    cases id with
    | pw =>
      exfalso
      unfold State.abortSpan at hs
      split at hs
      · split at hs
        · exact abortRegion_ne_pw _ _ _ _ _ hs
        · cases hs
      · cases hs
    | buf => rfl
    | ks => rfl

/-! ### The host port -/

/-- A routed window access lies inside the memory. -/
theorem route_window {p : Params} {addr n : Nat} {id : MemId} {a : Nat}
    (h : route p addr n = some (.window id a)) : a + n ≤ id.size p := by
  unfold route at h
  split at h
  · split at h
    · split at h <;> simp at h
    · cases h
  · split at h
    · split at h
      · rename_i hc
        simp only [Option.some.injEq, Target.window.injEq] at h
        obtain ⟨rfl, rfl⟩ := h
        exact hc.2
      · cases h
    · cases h

/-- A host address in a memory's window belongs to that memory. -/
theorem windowOf_base_add (id : MemId) {a : Nat} (h : a < id.window) : windowOf (id.base + a) = some (id, a) := by
  have hs : id.base + a - id.base = a := by omega
  unfold windowOf
  simp only [List.findSome?_cons, List.findSome?_nil]
  cases id <;> simp only [MemId.window] at h
  · rw [if_neg (by simp only [MemId.base, MemId.window]; omega), if_neg (by simp only [MemId.base, MemId.window]; omega),
      if_pos (by simp only [MemId.base, MemId.window]; omega), hs]
  · rw [if_neg (by simp only [MemId.base, MemId.window]; omega), if_pos (by simp only [MemId.base, MemId.window]; omega), hs]
  · rw [if_pos (by simp only [MemId.base, MemId.window]; omega), hs]

/-- A host address belongs to no memory but the one whose window holds it. -/
theorem windowOf_eq_some {addr : Nat} {id : MemId} {a : Nat} (h : windowOf addr = some (id, a)) :
    addr = id.base + a ∧ a < id.window := by
  obtain ⟨j, -, hj⟩ := List.exists_of_findSome?_eq_some h
  split at hj
  · simp only [Option.some.injEq, Prod.mk.injEq] at hj
    obtain ⟨rfl, rfl⟩ := hj
    omega
  · cases hj
/-- An aligned word access to a register of the map goes to that register. -/
theorem route_register (p : Params) {a : Nat} {r : Reg} (h1 : a < 0x1000) (h2 : a % 4 = 0) (h3 : regAt a = some r) :
    route p a 4 = some (.register r) := by
  simp [route, h1, h2, h3]

/-- Everything a host read can do. -/
theorem memRead_cases (s : State) (addr : Word) (n : AccessSize) :
    (route s.cfg addr.toNat n.bytes = none ∧ memRead s addr n = .fault (.busError addr n)) ∨
    (∃ r, route s.cfg addr.toNat n.bytes = some (.register r) ∧ memRead s addr n = .next (s, s.readReg r)) ∨
    (route s.cfg addr.toNat n.bytes = some .reserved ∧ memRead s addr n = .next (s, 0)) ∨
    (∃ id a v, route s.cfg addr.toNat n.bytes = some (.window id a) ∧ s.busy = true ∧
      memRead s addr n = .next (s.oneDraw, v)) ∨
    (∃ id a, route s.cfg addr.toNat n.bytes = some (.window id a) ∧ s.busy = false ∧
      memRead s addr n = .next (s, BitVec.ofNat 32 (fromLe (s.bytes id a n.bytes)))) := by
  unfold memRead
  rcases h : route s.cfg addr.toNat n.bytes with _ | ⟨r⟩ | _ | ⟨id, a⟩
  · exact .inl ⟨rfl, rfl⟩
  · exact .inr (.inl ⟨r, rfl, rfl⟩)
  · exact .inr (.inr (.inl ⟨rfl, rfl⟩))
  · cases hb : s.busy with
    | true => exact .inr (.inr (.inr (.inl ⟨id, a, _, rfl, rfl, rfl⟩)))
    | false => exact .inr (.inr (.inr (.inr ⟨id, a, rfl, rfl, rfl⟩)))

/-- Everything a host write can do. -/
theorem memWrite_cases (s : State) (addr : Word) (n : AccessSize) (v : Word) :
    (route s.cfg addr.toNat n.bytes = none ∧ memWrite s addr n v = .fault (.busError addr n)) ∨
    (∃ g, route s.cfg addr.toNat n.bytes = some g ∧ s.busy = true ∧ g ≠ .register .ctrl ∧ g ≠ .register .status ∧
      memWrite s addr n v = .next s.setWign) ∨
    (∃ r, route s.cfg addr.toNat n.bytes = some (.register r) ∧ (s.busy = false ∨ r = .ctrl ∨ r = .status) ∧
      memWrite s addr n v = .next (s.writeReg r v)) ∨
    (route s.cfg addr.toNat n.bytes = some .reserved ∧ s.busy = false ∧ memWrite s addr n v = .next s) ∨
    (∃ id a, route s.cfg addr.toNat n.bytes = some (.window id a) ∧ s.busy = false ∧
      memWrite s addr n v = .next (s.store id a (leBytes n.bytes v.toNat))) := by
  unfold memWrite
  rcases h : route s.cfg addr.toNat n.bytes with _ | ⟨r⟩ | _ | ⟨id, a⟩
  · exact .inl ⟨rfl, rfl⟩
  · cases hb : s.busy with
    | false => exact .inr (.inr (.inl ⟨r, rfl, .inl rfl, by simp⟩))
    | true =>
      by_cases h1 : r = .ctrl
      · subst h1; exact .inr (.inr (.inl ⟨.ctrl, rfl, .inr (.inl rfl), by simp⟩))
      · by_cases h2 : r = .status
        · subst h2; exact .inr (.inr (.inl ⟨.status, rfl, .inr (.inr rfl), by simp⟩))
        · exact .inr (.inl ⟨.register r, rfl, rfl, by simpa using h1, by simpa using h2, by simp [h1, h2]⟩)
  · cases hb : s.busy with
    | true => exact .inr (.inl ⟨.reserved, rfl, rfl, by simp, by simp, rfl⟩)
    | false => exact .inr (.inr (.inr (.inl ⟨rfl, rfl, rfl⟩)))
  · cases hb : s.busy with
    | true => exact .inr (.inl ⟨.window id a, rfl, rfl, by simp, by simp, rfl⟩)
    | false => exact .inr (.inr (.inr (.inr ⟨id, a, rfl, rfl, rfl⟩)))

/-- A host read as a transition: the value or the error response, and nothing else of the block. -/
theorem hostEvent_read_cases (s : State) (addr : Word) (n : AccessSize) :
    (route s.cfg addr.toNat n.bytes = none ∧ s.hostEvent (.read addr n) = s.respond (.error (.busError addr n))) ∨
    (∃ g v, route s.cfg addr.toNat n.bytes = some g ∧
      (s.hostEvent (.read addr n) = s.respond (.data v) ∨ s.hostEvent (.read addr n) = s.oneDraw.respond (.data v))) := by
  simp only [State.hostEvent]
  rcases memRead_cases s addr n with ⟨hr, h⟩ | ⟨r, hr, h⟩ | ⟨hr, h⟩ | ⟨id, a, v, hr, -, h⟩ | ⟨id, a, hr, -, h⟩
  · exact .inl ⟨hr, by rw [h]⟩
  · exact .inr ⟨_, _, hr, .inl (by rw [h])⟩
  · exact .inr ⟨_, _, hr, .inl (by rw [h])⟩
  · exact .inr ⟨_, v, hr, .inr (by rw [h])⟩
  · exact .inr ⟨_, _, hr, .inl (by rw [h])⟩

/-- A host write as a transition. -/
theorem hostEvent_write_cases (s : State) (addr : Word) (n : AccessSize) (v : Word) :
    (route s.cfg addr.toNat n.bytes = none ∧ s.hostEvent (.write addr n v) = s.respond (.error (.busError addr n))) ∨
    (∃ t, memWrite s addr n v = .next t ∧ s.hostEvent (.write addr n v) = t.respond .done) := by
  simp only [State.hostEvent]
  rcases memWrite_cases s addr n v with ⟨hr, h⟩ | ⟨g, -, -, -, -, h⟩ | ⟨r, -, -, h⟩ | ⟨-, -, h⟩ | ⟨id, a, -, -, h⟩
  · exact .inl ⟨hr, by rw [h]⟩
  · exact .inr ⟨_, h, by rw [h]⟩
  · exact .inr ⟨_, h, by rw [h]⟩
  · exact .inr ⟨_, h, by rw [h]⟩
  · exact .inr ⟨_, h, by rw [h]⟩

/-- A transition is the completion of the due command, the completion of a word that is no command, or a
turn of the host port. -/
theorem step_cases (s : State) :
    (∃ w i, fetch s = some w ∧ decode w = .ok i ∧ step s = exec i s) ∨
    (∃ w e, fetch s = some w ∧ decode w = .error e ∧ step s = .next (s.raise .badCommand)) ∨
    (fetch s = none ∧ step s = .next (hostTurn s)) := by
  unfold step
  rcases fetch s with _ | w
  · exact .inr (.inr ⟨rfl, rfl⟩)
  · rcases hd : decode w with e | i
    · exact .inr (.inl ⟨w, e, rfl, hd, by simp [hd, badCommand]⟩)
    · exact .inl ⟨w, i, rfl, hd, by simp [hd]⟩

/-- A command is due exactly when the engine is busy with no transition left before completion. -/
theorem fetch_eq_some {s : State} {w : Word} : fetch s = some w ↔ s.busy = true ∧ s.left = 0 ∧ w = s.cmd := by
  unfold fetch
  by_cases h : (s.busy && s.left == 0) = true
  · have h' : s.busy = true ∧ s.left = 0 := by simpa using h
    simp [h', eq_comm]
  · have h' : ¬ (s.busy = true ∧ s.left = 0) := by simpa using h
    simp only [h]
    constructor
    · intro hc; cases hc
    · rintro ⟨h1, h2, -⟩; exact absurd ⟨h1, h2⟩ h'

end Sys2Proof.Machine
end

