-- ==== Sys2Proof/Laws/Framing.lean ====
section
/-! SUPPORT. Blocks of a buffer, and the lengths of what the mixer and the framing functions compute. -/

namespace Sys2Proof.Machine

/-- Every block has the block size. -/
theorem blocks_mem_length {bs : Nat} {b c : List Byte} (hc : c ∈ blocks bs b) : c.length = bs := by
  unfold blocks at hc
  obtain ⟨k, hk, rfl⟩ := List.mem_map.mp hc
  have hk : k < b.length / bs := List.mem_range.mp hk
  have h1 : (k + 1) * bs ≤ b.length / bs * bs := Nat.mul_le_mul_right bs hk
  have h2 := Nat.div_mul_le_self b.length bs
  rw [List.length_take, List.length_drop, Nat.add_mul, Nat.one_mul] at *
  omega

@[simp] theorem blocks_length (bs : Nat) (b : List Byte) : (blocks bs b).length = b.length / bs := by
  simp [blocks]

/-- The blocks of a buffer whose first block is split off. -/
theorem blocks_cons {bs : Nat} {x r : List Byte} (hbs : 1 ≤ bs) (hx : x.length = bs) :
    blocks bs (x ++ r) = x :: blocks bs r := by
  unfold blocks
  have hd : (x ++ r).length / bs = r.length / bs + 1 := by
    rw [List.length_append, hx, Nat.add_comm, Nat.add_div_right _ (by omega)]
  rw [hd, List.range_succ_eq_map, List.map_cons, List.map_map]
  congr 1
  · simp [← hx]
  · apply List.map_congr_left
    intro k _
    have : (k + 1) * bs = x.length + k * bs := by rw [hx, Nat.add_mul]; omega
    have hnil : List.drop (x.length + k * bs) x = [] := List.drop_eq_nil_of_le (by omega)
    simp [Function.comp, this, List.drop_append, hnil]

/-- Cutting a sequence of equal blocks gives the blocks back. -/
theorem blocks_flatten_of_length {bs : Nat} (hbs : 1 ≤ bs) {cs : List (List Byte)}
    (h : ∀ c ∈ cs, c.length = bs) : blocks bs cs.flatten = cs := by
  induction cs with
  | nil => simp [blocks]
  | cons c cs ih =>
    rw [List.flatten_cons, blocks_cons hbs (h c (by simp)), ih (fun d hd => h d (by simp [hd]))]

/-- The blocks of a whole number of blocks, put together again. -/
theorem flatten_blocks {bs : Nat} (hbs : 1 ≤ bs) {b : List Byte} (h : b.length % bs = 0) :
    (blocks bs b).flatten = b := by
  obtain ⟨n, hn⟩ := Nat.dvd_of_mod_eq_zero h
  induction n generalizing b with
  | zero => simp [List.length_eq_zero_iff.mp (by simpa using hn), blocks]
  | succ n ih =>
    have hsplit : b = b.take bs ++ b.drop bs := (List.take_append_drop bs b).symm
    have hlen : b.length = bs * n + bs := by rw [hn, Nat.mul_succ]
    have ht : (b.take bs).length = bs := by rw [List.length_take]; omega
    have hd : (b.drop bs).length = bs * n := by rw [List.length_drop]; omega
    rw [hsplit, blocks_cons hbs ht, List.flatten_cons, ih (by rw [hd]; simp) hd]

/-- The total length of blocks of one size. -/
theorem flatten_length_of_length {bs : Nat} {cs : List (List Byte)} (h : ∀ c ∈ cs, c.length = bs) :
    cs.flatten.length = cs.length * bs := by
  induction cs with
  | nil => simp
  | cons c cs ih =>
    rw [List.flatten_cons, List.length_append, ih (fun d hd => h d (by simp [hd])), h c (by simp), List.length_cons,
      Nat.add_mul]
    omega

theorem xorBytes_length (x y : List Byte) : (xorBytes x y).length = min x.length y.length := by
  simp [xorBytes]

/-- XORing twice with the same bytes restores a sequence no longer than them. -/
theorem xorBytes_cancel {x y : List Byte} (h : x.length ≤ y.length) : xorBytes (xorBytes x y) y = x := by
  induction x generalizing y with
  | nil => simp [xorBytes]
  | cons a x ih =>
    cases y with
    | nil => simp at h
    | cons b y =>
      have := ih (y := y) (by simpa using h)
      simp only [xorBytes, List.zipWith_cons_cons] at this ⊢
      rw [this, BitVec.xor_assoc, BitVec.xor_self, BitVec.xor_zero]

@[simp] theorem mixBlocks_length (prev : List Byte) (cs : List (List Byte)) :
    (mixBlocks prev cs).length = cs.length := by
  induction cs generalizing prev with
  | nil => rfl
  | cons c cs ih => simp [mixBlocks, ih]

@[simp] theorem unmixBlocks_length (prev : List Byte) (cs : List (List Byte)) :
    (unmixBlocks prev cs).length = cs.length := by
  induction cs generalizing prev with
  | nil => rfl
  | cons c cs ih => simp [unmixBlocks, ih]

theorem mixBlocks_mem_length {bs : Nat} {prev : List Byte} {cs : List (List Byte)} (hp : prev.length = bs)
    (h : ∀ c ∈ cs, c.length = bs) : ∀ c ∈ mixBlocks prev cs, c.length = bs := by
  induction cs generalizing prev with
  | nil => simp [mixBlocks]
  | cons c cs ih =>
    have hx : (xorBytes c prev).length = bs := by rw [xorBytes_length, h c (by simp), hp, Nat.min_self]
    intro d hd
    simp only [mixBlocks, List.mem_cons] at hd
    rcases hd with rfl | hd
    · exact hx
    · exact ih hx (fun e he => h e (by simp [he])) d hd

theorem unmixBlocks_mem_length {bs : Nat} {prev : List Byte} {cs : List (List Byte)} (hp : prev.length = bs)
    (h : ∀ c ∈ cs, c.length = bs) : ∀ c ∈ unmixBlocks prev cs, c.length = bs := by
  induction cs generalizing prev with
  | nil => simp [unmixBlocks]
  | cons c cs ih =>
    have hx : (xorBytes c prev).length = bs := by rw [xorBytes_length, h c (by simp), hp, Nat.min_self]
    intro d hd
    simp only [unmixBlocks, List.mem_cons] at hd
    rcases hd with rfl | hd
    · exact hx
    · exact ih (h c (by simp)) (fun e he => h e (by simp [he])) d hd

/-- Mixing keeps the length of a whole number of blocks. -/
theorem mix_length {bs : Nat} {b key : List Byte} (h : b.length % bs = 0) (hk : key.length = bs) :
    (mix bs b key).length = b.length := by
  unfold mix
  rw [flatten_length_of_length (mixBlocks_mem_length hk fun c hc => blocks_mem_length hc), mixBlocks_length,
    blocks_length]
  exact Nat.div_mul_cancel (Nat.dvd_of_mod_eq_zero h)

/-- Unmixing keeps the length of a whole number of blocks. -/
theorem unmix_length {bs : Nat} {b key : List Byte} (h : b.length % bs = 0) (hk : key.length = bs) :
    (unmix bs b key).length = b.length := by
  unfold unmix
  rw [flatten_length_of_length (unmixBlocks_mem_length hk fun c hc => blocks_mem_length hc), unmixBlocks_length,
    blocks_length]
  exact Nat.div_mul_cancel (Nat.dvd_of_mod_eq_zero h)

@[simp] theorem shuffleChunks_length (last : Byte) (sr : Nat) (cs : List (List Byte)) :
    (shuffleChunks last sr cs).length = cs.length := by
  induction cs with
  | nil => rfl
  | cons c cs ih => simp [shuffleChunks, ih]

@[simp] theorem unshuffleChunks_length (last : Byte) (sr : Nat) (cs : List (List Byte)) :
    (unshuffleChunks last sr cs).length = cs.length := by
  induction cs with
  | nil => rfl
  | cons c cs ih => simp [unshuffleChunks, ih]

theorem shuffleChunks_mem_length {bs : Nat} {last : Byte} {sr : Nat} {cs : List (List Byte)}
    (h : ∀ c ∈ cs, c.length = bs) : ∀ c ∈ shuffleChunks last sr cs, c.length = bs := by
  induction cs with
  | nil => simp [shuffleChunks]
  | cons c cs ih =>
    intro d hd
    simp only [shuffleChunks, List.mem_cons] at hd
    rcases hd with rfl | hd
    · rw [shuffle_length, h c (by simp)]
    · exact ih (fun e he => h e (by simp [he])) d hd

theorem unshuffleChunks_mem_length {bs : Nat} {last : Byte} {sr : Nat} {cs : List (List Byte)}
    (h : ∀ c ∈ cs, c.length = bs) : ∀ c ∈ unshuffleChunks last sr cs, c.length = bs := by
  induction cs with
  | nil => simp [unshuffleChunks]
  | cons c cs ih =>
    intro d hd
    simp only [unshuffleChunks, List.mem_cons] at hd
    rcases hd with rfl | hd
    · rw [unshuffle_length, h c (by simp)]
    · exact ih (fun e he => h e (by simp [he])) d hd

/-- Scrambling a frame keeps its length. -/
theorem scrambleFrame_length {m sr : Nat} {k f : List Byte} (h : f.length % m = 0) (hk : k.length = m) :
    (scrambleFrame m k sr f).length = f.length := by
  have hc : (shuffleChunks (k.getD 0 0) sr (blocks m (shuffle f (globalSeed k sr) 5))).flatten.length = f.length := by
    rw [flatten_length_of_length (shuffleChunks_mem_length fun c hc => blocks_mem_length hc), shuffleChunks_length,
      blocks_length, shuffle_length]
    exact Nat.div_mul_cancel (Nat.dvd_of_mod_eq_zero h)
  unfold scrambleFrame
  simp only
  rw [mix_length (by rw [hc]; exact h) hk, hc]

/-- Unscrambling a buffer keeps its length. -/
theorem unscrambleFrame_length {m sr : Nat} {k w : List Byte} (h : w.length % m = 0) (hk : k.length = m) :
    (unscrambleFrame m k sr w).length = w.length := by
  unfold unscrambleFrame
  simp only
  rw [unshuffle_length,
    flatten_length_of_length (unshuffleChunks_mem_length fun c hc => blocks_mem_length hc), unshuffleChunks_length,
    blocks_length, unmix_length h hk]
  exact Nat.div_mul_cancel (Nat.dvd_of_mod_eq_zero h)

/-- The padding completes the last block. -/
theorem padLen_completes {m : Nat} (hm : 1 ≤ m) (l : Nat) : (10 + l + padLen m l) % m = 0 := by
  unfold padLen
  have hlt : (10 + l) % m < m := Nat.mod_lt _ hm
  by_cases h0 : (10 + l) % m = 0
  · rw [h0, Nat.sub_zero, Nat.mod_self, Nat.add_zero, h0]
  · rw [Nat.mod_eq_of_lt (a := m - (10 + l) % m) (by omega), Nat.add_mod, Nat.mod_eq_of_lt (a := m - (10 + l) % m) (by omega)]
    rw [show (10 + l) % m + (m - (10 + l) % m) = m by omega, Nat.mod_self]

theorem randomPrefix_length (ts : DWord) : (randomPrefix ts).length = 6 := by simp [randomPrefix]

theorem framedBuffer_length (m : Nat) (pre payload : List Byte) (h : pre.length = 6) :
    (framedBuffer m pre payload).length = 10 + payload.length + padLen m payload.length := by
  simp only [framedBuffer, List.length_append, beBytes_length, h, List.length_replicate]

end Sys2Proof.Machine
end

