-- ==== Sys2Proof/Laws/PerInstr.lean ====
section
/-! SUPPORT. Facts about every command as syntax, one lemma per constructor. -/

namespace Sys2Proof.Laws

/-- A command is well formed, and its word has RSV zero and its opcode in bits 7:0 (30_encoding.md R110). -/
def EncodingForm.Statement (i : Instr) : Prop :=
  i.wellFormed = true ∧ commandWordFormed (encode i) = true ∧ rsvField (encode i) = 0 ∧
  opcField (encode i) = opcodeOf i

theorem EncodingForm.nop : EncodingForm.Statement .nop := by unfold EncodingForm.Statement; decide

theorem EncodingForm.prngSeed : EncodingForm.Statement .prngSeed := by unfold EncodingForm.Statement; decide

theorem EncodingForm.prngTseed : EncodingForm.Statement .prngTseed := by unfold EncodingForm.Statement; decide

theorem EncodingForm.prngU32 : EncodingForm.Statement .prngU32 := by unfold EncodingForm.Statement; decide

theorem EncodingForm.prngU64 : EncodingForm.Statement .prngU64 := by unfold EncodingForm.Statement; decide

theorem EncodingForm.prngF64 : EncodingForm.Statement .prngF64 := by unfold EncodingForm.Statement; decide

theorem EncodingForm.prngRange : EncodingForm.Statement .prngRange := by unfold EncodingForm.Statement; decide

theorem EncodingForm.prngBytes : EncodingForm.Statement .prngBytes := by unfold EncodingForm.Statement; decide

theorem EncodingForm.keygen : EncodingForm.Statement .keygen := by unfold EncodingForm.Statement; decide

theorem EncodingForm.shuffle : EncodingForm.Statement .shuffle := by unfold EncodingForm.Statement; decide

theorem EncodingForm.unshuffle : EncodingForm.Statement .unshuffle := by unfold EncodingForm.Statement; decide

theorem EncodingForm.mix : EncodingForm.Statement .mix := by unfold EncodingForm.Statement; decide

theorem EncodingForm.unmix : EncodingForm.Statement .unmix := by unfold EncodingForm.Statement; decide

theorem EncodingForm.encrypt : EncodingForm.Statement .encrypt := by unfold EncodingForm.Statement; decide

theorem EncodingForm.decrypt : EncodingForm.Statement .decrypt := by unfold EncodingForm.Statement; decide

end Sys2Proof.Laws
end

