-- ==== Sys2Proof/Tests/Slice0.lean ====
section
/-! SUPPORT. Small tests with the values of 95_test_vectors.md, the smoke test of the checks, and for every statement with hypotheses a witness that meets them. -/

namespace Sys2Proof.Machine.Tests

/-! ### Helpers -/

/-- One field of the next state of a transition. -/
def got {α : Type} (f : State → α) : Host.Outcome State Fault Refusal → Option α
  | .next t => some (f t)
  | .fault _ => none
  | .refused _ => none

/-- A command with these operands is due; the time port was sampled as `time` (`tsrc` is 0). -/
def due (r : Regs) (time : DWord := 0) : State :=
  { State.reset with busy := true, regs := r, op := { regs := r, tsrc := false, time := time } }

/-- A command with its operands in `r` is due and the time seed is TSEED (`tsrc` is 1). -/
def dueTseed (r : Regs) : State := { due r with op := { regs := r, tsrc := true, time := 0 } }

/-- A command is in progress with `n` transitions left, and one host event waits. -/
def inProgress (n : Nat) (e : HostEvent) : State := { due Regs.reset with left := n, inbox := [e] }

/-- Idle after reset with one host event waiting. -/
def idleWith (e : HostEvent) : State := { State.reset with inbox := [e] }

/-- Operand registers that differ from reset in MATRIX_SIZE, PW_LEN, ADDR, LEN and STEP. -/
def ops (m pw a l st : Nat) : Regs :=
  { Regs.reset with matrixSize := BitVec.ofNat 32 m, pwLen := BitVec.ofNat 32 pw, addr := BitVec.ofNat 32 a,
                    len := BitVec.ofNat 32 l, step := BitVec.ofNat 32 st }

/-- The bytes 0, 1, …, n-1 at the start of BUF. -/
def counted (n : Nat) : Memory := cellsFrom 0 ((List.range n).map (BitVec.ofNat 8))

/-- BUF[0 .. n), STATUS. -/
def bufStatus (n : Nat) (s : State) : List Byte × Word := (s.bytes .buf 0 n, s.statusWord)

/-- Token T1 of 95_test_vectors.md 4.2. -/
def t1 : List Byte :=
  [0x6b, 0x6a, 0x69, 0x6a, 0x15, 0x10, 0x85, 0x6b, 0x7a, 0x6e, 0x02, 0x7f, 0x6a, 0x6b, 0x6a, 0x03, 0x02, 0x11]

/-- Token T4 of 95_test_vectors.md 4.2. -/
def t4 : List Byte := [0x40, 0x40, 0x40, 0x41, 0x20, 0x20, 0xbf, 0x72, 0x49, 0x08, 0xe1, 0x03, 0x31]

/-- ENCRYPT of T1 is due. -/
def encryptT1 : State := { dueTseed (ops 16 1 0 2 0) with buf := [(0, 0x68), (1, 0x69)], pw := [(0, 0x6b)] }

/-- DECRYPT of T1 is due. -/
def decryptT1 : State := { due (ops 16 1 0 18 0) with buf := cellsFrom 0 t1, pw := [(0, 0x6b)] }

/-! ### The checks refuse ill-formed terms -/

theorem test_legal_reference : Params.reference.legal = true := by decide
theorem test_legal_refuses_small_buffer : { Params.reference with bufSize := 267 }.legal = false := by decide
theorem test_legal_refuses_large_buffer : { Params.reference with bufSize := 2 ^ 28 + 1 }.legal = false := by decide
theorem test_legal_refuses_no_password : { Params.reference with pwMax := 0 }.legal = false := by decide
theorem test_legal_refuses_large_password : { Params.reference with pwMax := 65537 }.legal = false := by decide
theorem test_legal_refuses_small_matrix : { Params.reference with maxMatrix := 31 }.legal = false := by decide
theorem test_legal_refuses_large_matrix :
    { Params.reference with maxMatrix := 4097 }.legal = false := by decide
theorem test_word_form_refuses_rsv : commandWordFormed 0x00000100 = false := by decide
theorem test_word_form_takes_opc : commandWordFormed 0x000000FF = true := by decide
theorem test_write_value_refuses_wide : writeValueFits 1 0x100 = false ∧ writeValueFits 2 0x10000 = false := by decide
theorem test_write_value_takes_word : writeValueFits 4 0xFFFFFFFF = true := by decide
theorem test_commands_are_well_formed :
    Instr.wellFormed .nop = true ∧ Instr.wellFormed .prngBytes = true ∧ Instr.wellFormed .decrypt = true := by decide

/-! ### Decoding: words written out from 30_encoding.md R110 and R112, OPC in bits 7:0 under a zero RSV -/

theorem test_decode_control : decode 0b000000000000000000000000_00000000 = .ok .nop := by decide
theorem test_decode_prng_seed : decode 0b000000000000000000000000_00000001 = .ok .prngSeed := by decide
theorem test_decode_prng_tseed : decode 0b000000000000000000000000_00000010 = .ok .prngTseed := by decide
theorem test_decode_prng_u32 : decode 0b000000000000000000000000_00000011 = .ok .prngU32 := by decide
theorem test_decode_prng_u64 : decode 0b000000000000000000000000_00000100 = .ok .prngU64 := by decide
theorem test_decode_prng_f64 : decode 0b000000000000000000000000_00000101 = .ok .prngF64 := by decide
theorem test_decode_prng_range : decode 0b000000000000000000000000_00000110 = .ok .prngRange := by decide
theorem test_decode_prng_bytes : decode 0b000000000000000000000000_00000111 = .ok .prngBytes := by decide
theorem test_decode_keygen : decode 0b000000000000000000000000_00010000 = .ok .keygen := by decide
theorem test_decode_shuffle : decode 0b000000000000000000000000_00100000 = .ok .shuffle := by decide
theorem test_decode_unshuffle : decode 0b000000000000000000000000_00100001 = .ok .unshuffle := by decide
theorem test_decode_mix : decode 0b000000000000000000000000_00110000 = .ok .mix := by decide
theorem test_decode_unmix : decode 0b000000000000000000000000_00110001 = .ok .unmix := by decide
theorem test_decode_encrypt : decode 0b000000000000000000000000_01000000 = .ok .encrypt := by decide
theorem test_decode_decrypt : decode 0b000000000000000000000000_01000001 = .ok .decrypt := by decide
theorem test_decode_reserved_opc : decode 0x000000FF = .error .reservedOpcode := by decide
theorem test_decode_reserved_rsv : decode 0x00000120 = .error .reservedBits := by decide
theorem test_decode_bytes_short : decodeBytes [0x20, 0x00, 0x00] = .error .notOneWord := by decide
theorem test_decode_bytes_order :
    decodeBytes [0x41, 0x00, 0x00, 0x00] = .ok .decrypt ∧ decodeBytes [0x00, 0x00, 0x00, 0x41] = .error .reservedBits := by
  decide

/-! ### Commands (95_test_vectors.md, section by section) -/

theorem test_nop : got State.statusWord (exec .nop (due Regs.reset)) = some 0x00000002 := by decide

theorem test_prng_seed :
    got State.prng (exec .prngSeed (due { Regs.reset with seedHi := 0x01234567, seedLo := 0x89ABCDEF })) =
      some 0x0123456789ABCDEF := by decide

theorem test_prng_tseed_register :
    got State.prng (exec .prngTseed (dueTseed { Regs.reset with tseedHi := 0xDEADBEEF, tseedLo := 1 })) =
      some 0xDEADBEEF00000001 := by decide
theorem test_prng_tseed_port :
    got State.prng (exec .prngTseed (due { Regs.reset with tseedHi := 0xDEADBEEF } 1700000000)) =
      some 0x000000006553F100 := by decide

theorem test_prng_u32 :
    got (fun t => (t.res, t.prng)) (exec .prngU32 { due Regs.reset with prng := 0xFFFFFFFFFFFFFFFF }) =
      some (0x00000000BBB38751, 0xBBB38751AAD20222) := by decide

theorem test_prng_u64 :
    got (fun t => (t.res, t.prng)) (exec .prngU64 { due Regs.reset with prng := 1 }) =
      some (0x6C576FAC826886B3, 0x826886B3864A1B1B) := by decide

theorem test_prng_f64 :
    got (fun t => (t.res, t.prng)) (exec .prngF64 { due Regs.reset with prng := 1 }) =
      some (0x3FDB15DBEB1B15DC, 0x6C576FAC43FD007C) := by decide +kernel
theorem test_prng_f64_ends :
    got State.res (exec .prngF64 { due Regs.reset with prng := 0x66F78D1121535015 }) = some 0x3FF0000000000000 ∧
    got State.res (exec .prngF64 { due Regs.reset with prng := 0x9995B5B621535015 }) = some 0 := by decide +kernel

theorem test_prng_range :
    got State.res (exec .prngRange { due { Regs.reset with lowHi := 0xBFF00000, highHi := 0x3FF00000 } with prng := 1 }) =
      some 0xBFC3A8905393A890 := by decide +kernel
theorem test_prng_range_nan :
    got (fun t => (t.res, t.prng)) (exec .prngRange (due { Regs.reset with lowHi := 0x7FF00000, highHi := 0x7FF00000 })) =
      some (0x7FF8000000000000, 0x14057B7EF767814F) := by decide +kernel

theorem test_prng_bytes :
    got (fun t => (bufStatus 6 t, t.prng)) (exec .prngBytes (due (ops 32 0 0 6 0))) =
      some (([0x7e, 0x7b, 0x05, 0x14, 0x11, 0xee], 0x00000002), 0x1A08EE1184BA6D32) := by decide
theorem test_prng_bytes_range :
    got (fun t => (t.buf, t.prng, t.statusWord)) (exec .prngBytes (due (ops 32 0 0xFFFFFFFF 1 0))) =
      some ([], 0, 0x00001102) := by decide

theorem test_keygen :
    got (fun t => t.bytes .ks 0 8)
      (exec .keygen { due (ops 8 3 0 0 0) with pw := [(0, 0x61), (1, 0x62), (2, 0x63)] }) =
      some [0x61, 0x62, 0x63, 0x61, 0x62, 0x63, 0x61, 0x62] := by decide
theorem test_keygen_range :
    got (fun t => (t.ks, t.statusWord)) (exec .keygen (due (ops 32 257 0 0 0))) = some ([], 0x00001102) := by decide

theorem test_shuffle :
    got (bufStatus 8) (exec .shuffle { due (ops 32 0 0 8 1) with buf := counted 8 }) =
      some ([0x02, 0x06, 0x05, 0x04, 0x01, 0x03, 0x07, 0x00], 0x00000002) := by decide +kernel
theorem test_shuffle_binary64_index : swaps 0x84DB389D21535015 100 52 = [(51, 30)] := by decide +kernel

theorem test_unshuffle :
    got (bufStatus 8) (exec .unshuffle
      { due (ops 32 0 0 8 1) with buf := cellsFrom 0 [0x02, 0x06, 0x05, 0x04, 0x01, 0x03, 0x07, 0x00] }) =
      some ([0, 1, 2, 3, 4, 5, 6, 7], 0x00000002) := by decide +kernel
theorem test_unshuffle_priority :
    got State.statusWord (exec .unshuffle (due (ops 32 0 65530 7 0))) = some 0x00001102 ∧
    got State.statusWord (exec .unshuffle (due (ops 32 0 0 0 0))) = some 0x00001202 := by decide

theorem test_mix :
    got (bufStatus 12) (exec .mix { due (ops 4 0 0 12 0) with
        buf := cellsFrom 0 [1, 2, 3, 4, 5, 6, 7, 8, 9, 10, 11, 12], ks := cellsFrom 0 [0x10, 0x20, 0x30, 0x40] }) =
      some ([0x11, 0x22, 0x33, 0x44, 0x14, 0x24, 0x34, 0x4c, 0x1d, 0x2e, 0x3f, 0x40], 0x00000002) := by decide
theorem test_mix_length :
    got State.statusWord (exec .mix (due (ops 4 0 0 10 0))) = some 0x00000202 := by decide

theorem test_unmix :
    got (bufStatus 12) (exec .unmix { due (ops 4 0 0 12 0) with
        buf := cellsFrom 0 [1, 2, 3, 4, 5, 6, 7, 8, 9, 10, 11, 12], ks := cellsFrom 0 [0x10, 0x20, 0x30, 0x40] }) =
      some ([0x11, 0x22, 0x33, 0x44, 0x04, 0x04, 0x04, 0x0c, 0x0c, 0x0c, 0x0c, 0x04], 0x00000002) := by decide

theorem test_encrypt :
    got (fun t => (bufStatus 18 t, t.outLen)) (exec .encrypt encryptT1) = some ((t1, 0x00000002), 18) := by decide +kernel
theorem test_encrypt_too_large :
    got (fun t => (t.statusWord, t.outLen)) (exec .encrypt (due (ops 16 0 65524 0 0))) = some (0x00000102, 0) := by decide

theorem test_decrypt :
    got (fun t => (bufStatus 2 t, t.outLen)) (exec .decrypt decryptT1) = some (([0x68, 0x69], 0x00000002), 2) := by
  decide +kernel
theorem test_decrypt_wrong_password :
    got (fun t => (t.statusWord, t.outLen)) (exec .decrypt { decryptT1 with pw := [(0, 0x4b)], outLen := 7 }) =
      some (0x00000202, 0) := by decide +kernel

/-! ### Host port (95_test_vectors.md, section 5) -/

theorem test_bad_command :
    got State.statusWord (step { due Regs.reset with cmd := 0x00000120 }) = some 0x00001002 := by decide
theorem test_little_endian :
    got State.buf (step (idleWith (.write 0x10000000 .word 0x44332211))) =
      some [(0, 0x11), (1, 0x22), (2, 0x33), (3, 0x44)] := by decide
theorem test_matrix_size_too_large :
    got (fun t => (t.regs.matrixSize, t.statusWord)) (step (idleWith (.write 0x030 .word 257))) =
      some (32, 0x00000004) := by decide
theorem test_bus_error_width :
    got (fun t => (t.ie, t.wign, t.bus)) (step (idleWith (.write 0x020 .byte 1))) =
      some (false, false, .error (.busError 0x020 .byte)) := by decide
theorem test_ctrl_readback :
    got State.ctrlWord (step (idleWith (.write 0x020 .word 0xFFFFFFFB))) = some 0x00000003 := by decide
theorem test_soft_reset_wins :
    got (fun t => (t.ctrlWord, t.statusWord, t.regs)) (step (inProgress 3 (.write 0x020 .word 0x7))) =
      some (0, 0, Regs.reset) := by decide

/-! ### Witnesses: for each statement with hypotheses, states and operands that meet them, at the boundaries -/

theorem witness_DecodeEncodeAgree : Instr.wellFormed .decrypt = true ∧ decode 0x00000041 = .ok .decrypt := by decide

/-- Both ends of each range of reserved words. -/
theorem witness_IllegalWordsCompleteWithBadCommand :
    ∀ n ∈ [0x100, 0xFFFFFFFF, 0x08, 0x0F, 0x11, 0x1F, 0x22, 0x2F, 0x32, 0x3F, 0x42, 0xFF],
      let s : State := { due Regs.reset with cmd := BitVec.ofNat 32 n }
      s.busy = true ∧ s.left = 0 ∧
      ((256 ≤ s.cmd.toNat) ∨ (0x08 ≤ s.cmd.toNat ∧ s.cmd.toNat ≤ 0x0F) ∨ (0x11 ≤ s.cmd.toNat ∧ s.cmd.toNat ≤ 0x1F) ∨
        (0x22 ≤ s.cmd.toNat ∧ s.cmd.toNat ≤ 0x2F) ∨ (0x32 ≤ s.cmd.toNat ∧ s.cmd.toNat ≤ 0x3F) ∨
        (0x42 ≤ s.cmd.toNat ∧ s.cmd.toNat ≤ 0xFF)) := by decide

theorem witness_StepRunsTheDueCommand :
    Instr.wellFormed .nop = true ∧ (due Regs.reset).busy = true ∧ (due Regs.reset).left = 0 ∧
    decode (due Regs.reset).cmd = .ok .nop ∧ decodeTableWord 32 0x41 = some .decrypt := by decide

theorem witness_IdleCmdWriteIsAccepted :
    ∀ n ∈ [0x02, 0x40], let w : Word := BitVec.ofNat 32 n
      (idleWith (.write 0x028 .word w)).busy = false ∧ (idleWith (.write 0x028 .word w)).tsrc = false ∧
      (idleWith (.write 0x028 .word w)).inbox = .write 0x028 .word w :: [] ∧
      (decode w = .ok .prngTseed ∨ decode w = .ok .encrypt) := by decide

theorem witness_CommandInProgressCompletes :
    (inProgress 2 (.read 0x024 .word)).busy = true ∧
    (∀ e ∈ (inProgress 2 (.read 0x024 .word)).inbox.take (inProgress 2 (.read 0x024 .word)).left,
      isResetEvent e = false) := by decide

/-- A command that writes nothing but its completion meets every clause of the frame. -/
theorem witness_CommandsKeepTheRest :
    exec .nop (due Regs.reset) = .next ((due Regs.reset).finished 0x00) ∧ writesState .nop = false ∧
    writesRes .nop = false ∧ writesOutLen .nop = false ∧ Instr.nop ≠ .keygen ∧
    storedSpan (due Regs.reset).op.regs .nop = none := ⟨rfl, by decide⟩

/-- The byte just past the region of a SHUFFLE. -/
theorem witness_CommandsKeepOtherBytes :
    (∃ t, exec .shuffle (due (ops 32 0 65530 6 1)) = .next t) ∧
    ¬ inSpan (storedSpan (due (ops 32 0 65530 6 1)).op.regs .shuffle) .buf 65529 ∧
    ¬ inSpan (storedSpan (due (ops 32 0 65530 6 1)).op.regs .shuffle) .buf 65536 := by
  refine ⟨⟨_, rfl⟩, ?_, ?_⟩ <;> simp [storedSpan, inSpan, due, ops, Regs.reset]

theorem witness_OperandsComeFromTheSnapshot :
    exec .prngSeed (due Regs.reset) = .next ((due Regs.reset).finished 0x00) := rfl

theorem witness_BusyFreezesOperandsAndMemories :
    (inProgress 1 (.write 0x10000000 .word 1)).busy = true ∧ (inProgress 1 (.write 0x10000000 .word 1)).left ≠ 0 ∧
    (∀ e ∈ (inProgress 1 (.write 0x10000000 .word 1)).inbox.take 1, isResetEvent e = false) ∧
    step (inProgress 1 (.write 0x10000000 .word 1)) =
      .next { inProgress 1 (.write 0x10000000 .word 1) with wign := true, left := 0, inbox := [], bus := .done } :=
  ⟨by decide, by decide, by decide, rfl⟩

/-- STATE changes at the completion of PRNG_SEED, and at a soft reset. -/
theorem witness_OnlyPrngCommandsChangeState :
    (∃ t, step { due { Regs.reset with seedLo := 7 } with cmd := 1 } = .next t ∧ t.prng ≠ 0) ∧
    (∃ t, step { idleWith (.write 0x020 .word 4) with prng := 9 } = .next t ∧ t.prng ≠ 9) :=
  ⟨⟨_, rfl, by decide⟩, ⟨_, rfl, by decide⟩⟩

/-- A denominator; finite operands with a sum and a difference of zero and of not zero, and a divisor of each
kind; a NaN; infinities of one sign and of two; an infinity with a zero and with another finite value. -/
theorem witness_BinaryRoundingIsToNearestEven :
    0 < 1 ∧ f64View 0x3FF0000000000000 = .fin false (2 ^ 52) 1022 ∧
    f64View 0xBFF0000000000000 = .fin true (2 ^ 52) 1022 ∧ f64View 0x8000000000000000 = .fin true 0 0 ∧
    f64Units false (2 ^ 52) 1022 + f64Units true (2 ^ 52) 1022 = 0 ∧
    f64Units false (2 ^ 52) 1022 - f64Units true (2 ^ 52) 1022 ≠ 0 ∧
    f64View 0x7FF8000000000001 = .nan ∧ f64View 0x7FF0000000000000 = .inf false ∧
    f64View 0xFFF0000000000000 = .inf true := by decide +kernel

/-- `roundsTo` at its edges: half a unit is a tie that goes to 0, and the first quotient past the last finite
value gives the infinity. -/
theorem test_rounding_edges :
    f64View (f64Round false 1 2) = .fin false 0 0 ∧ f64View (f64Round false 3 2) = .fin false 2 0 ∧
    f64View (f64Round true ((2 ^ 54 - 1) * 2 ^ 2044) 1) = .inf true ∧
    f64View (f64Round true ((2 ^ 54 - 1) * 2 ^ 2044 - 1) 1) = .fin true (2 ^ 53 - 1) 2045 := by decide +kernel

/-- Both ends of the draw: 0 and u32::MAX. -/
theorem witness_PrngF64Result :
    (lcg 0x9995B5B621535015).toNat / 2 ^ 32 = 0 ∧ (lcg 0x66F78D1121535015).toNat / 2 ^ 32 = 4294967295 := by decide

/-- A result that is a number; a NaN operand; an infinite LOW; an infinite HIGH with a finite LOW; a difference of
finite operands past the largest value; a draw of 0 and one that is not. -/
theorem witness_PrngRangeResult :
    f64View (genRange 0 0 0x4024000000000000).1 ≠ .nan ∧
    f64View 0x7FF8000000000001 = .nan ∧ f64View 0x7FF0000000000000 = .inf false ∧ f64View 0 = .fin false 0 0 ∧
    f64View 0xFFEFFFFFFFFFFFFF = .fin true (2 ^ 53 - 1) 2045 ∧
    f64View (fsub 0x7FEFFFFFFFFFFFFF 0xFFEFFFFFFFFFFFFF) = .inf false ∧
    (lcg 0x9995B5B621535015).toNat / 2 ^ 32 = 0 ∧ (lcg 0).toNat / 2 ^ 32 ≠ 0 := by decide +kernel

/-- The last byte of BUF, one byte too many, and the first and last byte of the region. -/
theorem witness_PrngBytesResult :
    (ops 32 0 65535 1 0).addr.toNat + (ops 32 0 65535 1 0).len.toNat ≤ (due (ops 32 0 65535 1 0)).cfg.bufSize ∧
    (due (ops 32 0 65535 2 0)).cfg.bufSize < (ops 32 0 65535 2 0).addr.toNat + (ops 32 0 65535 2 0).len.toNat ∧
    0 < (ops 32 0 65535 1 0).len.toNat ∧ ¬ (65535 ≤ 65534 ∧ 65534 < 65535 + 1) := by decide

theorem witness_KeygenResult :
    (ops 32 256 0 0 0).pwLen.toNat ≤ (due (ops 32 256 0 0 0)).cfg.pwMax ∧
    (due (ops 32 257 0 0 0)).cfg.pwMax < (ops 32 257 0 0 0).pwLen.toNat ∧
    31 < (ops 32 256 0 0 0).matrixSize.toNat ∧ (ops 32 256 0 0 0).matrixSize.toNat ≤ 32 := by decide

/-- A password as long as the matrix, and "k" against "kk". -/
theorem witness_PasswordsWithOneKeystream :
    2 ≤ ([0x61, 0x62] : List Byte).length ∧ keystream 16 [0x6b] = keystream 16 [0x6b, 0x6b] := by decide

theorem witness_PivotSequence : 1 ≤ 1 ∧ 1 ≤ 2 ∧ 1 ∈ pivots 2 1 ∧ pivots 1 3 = [] := by decide

/-- The smallest and the largest pivot, and a draw of u32::MAX. -/
theorem witness_SwapIndexDraw :
    1 ≤ 1 ∧ 1 < 2 ^ 28 ∧ 2 ^ 28 - 1 < 2 ^ 28 ∧ (lcg 0x66F78D1121535015).toNat / 2 ^ 32 = 4294967295 := by decide

theorem witness_SwapListDraws : (pivots 8 2)[0]? = some 7 ∧ (pivots 8 2)[3]? = some 1 := by decide

theorem witness_ShufflePermutesIndependentlyOfData :
    ([5, 6, 7] : List Byte).length ≤ 2 ^ 28 ∧ 0 < ([5, 6, 7] : List Byte).length ∧ 2 < ([5, 6, 7] : List Byte).length := by
  decide

theorem witness_ShuffleInverse : 1 ≤ 1 := by decide

/-- A region that ends where BUF ends, and the bytes before and after it. -/
theorem witness_ShuffleAndUnshuffleResults :
    (ops 32 0 65530 6 1).addr.toNat + (ops 32 0 65530 6 1).len.toNat ≤ (due (ops 32 0 65530 6 1)).cfg.bufSize ∧
    (ops 32 0 65530 6 1).step ≠ 0 ∧ ¬ (65530 ≤ 65529 ∧ 65529 < 65530 + 6) ∧ ¬ (65530 ≤ 65536 ∧ 65536 < 65530 + 6) := by
  decide

theorem witness_MixInverse :
    1 ≤ 1 ∧ ([1, 2, 3] : List Byte).length % 1 = 0 ∧ ([0xa5] : List Byte).length = 1 := by decide

/-- Two blocks that end where BUF ends: the last byte of the first and the first byte of the second. -/
theorem witness_MixAndUnmixResults :
    (ops 4 0 65528 8 0).addr.toNat + (ops 4 0 65528 8 0).len.toNat ≤ (due (ops 4 0 65528 8 0)).cfg.bufSize ∧
    (ops 4 0 65528 8 0).len.toNat % (ops 4 0 65528 8 0).matrixSize.toNat = 0 ∧
    3 < (ops 4 0 65528 8 0).matrixSize.toNat ∧ ¬ 4 < (ops 4 0 65528 8 0).matrixSize.toNat ∧
    4 < (ops 4 0 65528 8 0).len.toNat ∧ ¬ (65528 ≤ 65527 ∧ 65527 < 65528 + 8) := by decide

/-- RANGE at one byte too many, BAD_STEP with an empty region, a length that is no multiple. -/
theorem witness_RegionCommandErrors :
    (due (ops 4 0 65536 1 0)).cfg.bufSize < (ops 4 0 65536 1 0).addr.toNat + (ops 4 0 65536 1 0).len.toNat ∧
    (ops 4 0 65536 0 0).addr.toNat + (ops 4 0 65536 0 0).len.toNat ≤ (due (ops 4 0 65536 0 0)).cfg.bufSize ∧
    (ops 4 0 65536 0 0).step = 0 ∧
    (ops 4 0 65526 10 1).addr.toNat + (ops 4 0 65526 10 1).len.toNat ≤ (due (ops 4 0 65526 10 1)).cfg.bufSize ∧
    (ops 4 0 65526 10 1).len.toNat % (ops 4 0 65526 10 1).matrixSize.toNat ≠ 0 := by decide

/-- Two blocks of 8 bytes: the first has a next chunk, the last has none, and bytes 7 and 8 are on either side of
the first block's end; a token of 13 bytes with M = 1, and one of M = 16 whose padding begins at byte 12. -/
theorem witness_TokenShape :
    1 ≤ 8 ∧ ([1, 2, 3, 4, 5, 6, 7, 8] : List Byte).length = 8 ∧ (List.replicate 16 (7 : Byte)).length % 8 = 0 ∧
    0 + 1 < (List.replicate 16 (7 : Byte)).length / 8 ∧ 1 < (List.replicate 16 (7 : Byte)).length / 8 ∧
    ¬ 1 + 1 < (List.replicate 16 (7 : Byte)).length / 8 ∧ encryptToken 1 [0x41] [] 5 = t4 ∧
    10 + 2 ≤ 12 ∧ 12 < 10 + 2 + (16 - (10 + 2) % 16) % 16 := by decide +kernel

theorem witness_ChunkShufflesInvert :
    ([[1, 2], [3, 4]] : List (List Byte)) = [1, 2] :: [[3, 4]] := by decide

theorem witness_DecryptInvertsEncrypt : 1 ≤ 1 ∧ ([0x41] : List Byte).length < 2 ^ 32 := by decide

/-- A token that ends where BUF ends: 12 bytes at 65524 with M = 1. -/
theorem witness_EncryptResult :
    (due (ops 1 256 65524 0 0)).cfg.legal = true ∧ 1 ≤ (ops 1 256 65524 0 0).matrixSize.toNat ∧
    (ops 1 256 65524 0 0).pwLen.toNat ≤ (due (ops 1 256 65524 0 0)).cfg.pwMax ∧
    (ops 1 256 65524 0 0).addr.toNat + (12 + 0 + (1 - (10 + 0) % 1) % 1) ≤ (due (ops 1 256 65524 0 0)).cfg.bufSize ∧
    ¬ (65524 ≤ 65523 ∧ 65523 < 65524 + 12) := by decide

/-- Each error at its boundary: a password one byte too long, a region one byte too long, a token one byte
too long. -/
theorem witness_EncryptErrors :
    (due (ops 1 257 0 0 0)).cfg.pwMax < (ops 1 257 0 0 0).pwLen.toNat ∧
    (due (ops 1 0 0 65537 0)).cfg.bufSize < (ops 1 0 0 65537 0).addr.toNat + (ops 1 0 0 65537 0).len.toNat ∧
    (ops 1 256 65525 0 0).pwLen.toNat ≤ (due (ops 1 256 65525 0 0)).cfg.pwMax ∧
    (ops 1 256 65525 0 0).addr.toNat + (ops 1 256 65525 0 0).len.toNat ≤ (due (ops 1 256 65525 0 0)).cfg.bufSize ∧
    (due (ops 1 256 65525 0 0)).cfg.bufSize <
      (ops 1 256 65525 0 0).addr.toNat + 12 + (ops 1 256 65525 0 0).len.toNat + (1 - (10 + 0) % 1) % 1 := by decide

/-- DECRYPT of T4: M = 1, where the length field just fits the buffer. -/
def decryptT4 : State := { due (ops 1 0 0 13 0) with buf := cellsFrom 0 t4 }

theorem witness_DecryptResult :
    decryptT4.op.regs.pwLen.toNat ≤ decryptT4.cfg.pwMax ∧
    decryptT4.op.regs.addr.toNat + decryptT4.op.regs.len.toNat ≤ decryptT4.cfg.bufSize ∧
    6 ≤ decryptT4.op.regs.len.toNat ∧ (decryptT4.op.regs.len.toNat - 2) % decryptT4.op.regs.matrixSize.toNat = 0 ∧
    (let a := decryptT4.op.regs.addr.toNat
     let n := decryptT4.op.regs.len.toNat - 2
     let sr := (decryptT4.byte .buf (a + n)).toNat * 256 + (decryptT4.byte .buf (a + n + 1)).toNat
     let w := unscrambleFrame decryptT4.op.regs.matrixSize.toNat
       (keystream decryptT4.op.regs.matrixSize.toNat (decryptT4.bytes .pw 0 decryptT4.op.regs.pwLen.toNat)) sr
       (decryptT4.bytes .buf a n)
     fromBe (w.take 4) + 10 = n) ∧
    ¬ (0 ≤ 13 ∧ 13 < 0 + decryptT4.op.regs.len.toNat) := by decide +kernel

/-- RANGE for the password and for the region; five bytes; six bytes that are not 2 more than a multiple. -/
theorem witness_DecryptEarlyErrors :
    (due (ops 4 257 0 3 0)).cfg.pwMax < (ops 4 257 0 3 0).pwLen.toNat ∧
    (due (ops 4 0 65536 1 0)).cfg.bufSize < (ops 4 0 65536 1 0).addr.toNat + (ops 4 0 65536 1 0).len.toNat ∧
    (ops 4 256 65531 5 0).pwLen.toNat ≤ (due (ops 4 256 65531 5 0)).cfg.pwMax ∧
    (ops 4 256 65531 5 0).addr.toNat + (ops 4 256 65531 5 0).len.toNat ≤ (due (ops 4 256 65531 5 0)).cfg.bufSize ∧
    (ops 4 256 65531 5 0).len.toNat < 6 ∧ ((ops 3 0 0 6 0).len.toNat - 2) % (ops 3 0 0 6 0).matrixSize.toNat ≠ 0 := by
  decide

/-- Six zero bytes with M = 4: the length field is 0, but the buffer has only 4 bytes. -/
def decryptZeros : State := { due (ops 4 0 0 6 0) with buf := cellsFrom 0 [0, 0, 0, 0, 0, 0] }

theorem witness_DecryptLateError :
    decryptZeros.op.regs.pwLen.toNat ≤ decryptZeros.cfg.pwMax ∧
    decryptZeros.op.regs.addr.toNat + decryptZeros.op.regs.len.toNat ≤ decryptZeros.cfg.bufSize ∧
    6 ≤ decryptZeros.op.regs.len.toNat ∧
    (decryptZeros.op.regs.len.toNat - 2) % decryptZeros.op.regs.matrixSize.toNat = 0 ∧
    (let a := decryptZeros.op.regs.addr.toNat
     let n := decryptZeros.op.regs.len.toNat - 2
     let sr := (decryptZeros.byte .buf (a + n)).toNat * 256 + (decryptZeros.byte .buf (a + n + 1)).toNat
     let w := unscrambleFrame decryptZeros.op.regs.matrixSize.toNat
       (keystream decryptZeros.op.regs.matrixSize.toNat (decryptZeros.bytes .pw 0 decryptZeros.op.regs.pwLen.toNat)) sr
       (decryptZeros.bytes .buf a n)
     n < fromBe (w.take 4) + 10) := by decide +kernel

theorem witness_DecryptAfterEncryptRestoresPayload :
    encryptT1.cfg.legal = true ∧ 1 ≤ encryptT1.op.regs.matrixSize.toNat ∧
    encryptT1.op.regs.pwLen.toNat ≤ encryptT1.cfg.pwMax ∧
    encryptT1.op.regs.addr.toNat + 12 + encryptT1.op.regs.len.toNat +
      (encryptT1.op.regs.matrixSize.toNat - (10 + encryptT1.op.regs.len.toNat) % encryptT1.op.regs.matrixSize.toNat)
        % encryptT1.op.regs.matrixSize.toNat ≤ encryptT1.cfg.bufSize ∧ 1 < encryptT1.op.regs.len.toNat := by decide

/-- The first and the last reserved offset of the REG region. -/
theorem witness_ReservedOffsets :
    ∀ n ∈ [0x014, 0x02C, 0xFFC],
      let addr : Word := BitVec.ofNat 32 n
      addr.toNat < 0x1000 ∧ addr.toNat % 4 = 0 ∧
      addr.toNat ∉ [0x000, 0x004, 0x008, 0x00C, 0x010, 0x020, 0x024, 0x028, 0x030, 0x034, 0x038, 0x03C, 0x040,
        0x048, 0x04C, 0x050, 0x054, 0x058, 0x05C, 0x060, 0x064, 0x080, 0x084, 0x088, 0x08C, 0x090] ∧
      State.reset.busy = false := by decide

theorem witness_ReadOnlyRegistersIgnoreWrites :
    State.reset.busy = false ∧
    (0x090 : Word) ∈ ([0x000, 0x004, 0x008, 0x00C, 0x010, 0x080, 0x084, 0x088, 0x08C, 0x090] : List Word) := by decide

/-- PW_LEN is written, and MATRIX_SIZE beside it is read. -/
theorem witness_OperandRegistersStoreAnyValue :
    State.reset.busy = false ∧
    (0x034 : Word) ∈ ([0x034, 0x038, 0x03C, 0x040, 0x048, 0x04C, 0x050, 0x054, 0x058, 0x05C, 0x060, 0x064] : List Word) ∧
    (0x030 : Word) ≠ 0x034 ∧ (0x030 : Word).toNat < 0x1000 ∧
    memRead State.reset 0x030 .word = .next (State.reset, 32) := ⟨by decide, by decide, by decide, by decide, rfl⟩

/-- 0, MAX_MATRIX + 1, MAX_MATRIX and 1. -/
theorem witness_MatrixSizeFilter :
    State.reset.busy = false ∧ (0 : Word).toNat = 0 ∧ (257 : Word).toNat ≠ 0 ∧
    State.reset.cfg.maxMatrix < (257 : Word).toNat ∧ (256 : Word).toNat ≠ 0 ∧
    (256 : Word).toNat ≤ State.reset.cfg.maxMatrix ∧ (1 : Word).toNat ≠ 0 ∧
    (1 : Word).toNat ≤ State.reset.cfg.maxMatrix := by decide

theorem witness_StatusAndCtrlWrites : (0xFFFFFFFB : Word).getLsbD 2 = false := by decide

/-- A write to the last byte of BUF while busy. -/
theorem witness_WritesWhileBusyAreDropped :
    (inProgress 1 (.write 0x1000FFFF .byte 1)).cfg.legal = true ∧ (inProgress 1 (.write 0x1000FFFF .byte 1)).busy = true ∧
    (inProgress 1 (.write 0x1000FFFF .byte 1)).left ≠ 0 ∧
    (inProgress 1 (.write 0x1000FFFF .byte 1)).inbox = .write 0x1000FFFF .byte 1 :: [] ∧
    legalAccess (inProgress 1 (.write 0x1000FFFF .byte 1)).cfg (0x1000FFFF : Word).toNat AccessSize.byte.bytes ∧
    (0x1000FFFF : Word) ≠ 0x020 ∧ (0x1000FFFF : Word) ≠ 0x024 :=
  ⟨by decide, by decide, by decide, by decide, .inr ⟨.buf, by decide⟩, by decide, by decide⟩

/-- Illegal: a misaligned register word, a byte of a register, the byte past BUF. Legal: the last register
word and the last byte of BUF. -/
theorem witness_BusErrorsChangeNothing :
    State.reset.cfg.legal = true ∧ (¬ legalAccess State.reset.cfg 0x022 4) ∧ (¬ legalAccess State.reset.cfg 0x020 1) ∧
    (¬ legalAccess State.reset.cfg 0x10010000 1) ∧ legalAccess State.reset.cfg 0xFFC 4 ∧
    legalAccess State.reset.cfg 0x1000FFFF 1 ∧ fetch (idleWith (.read 0x10010000 .byte)) = none ∧
    (idleWith (.read 0x10010000 .byte)).inbox = .read 0x10010000 .byte :: [] := by
  have h : ∀ a n, ¬ (a < 0x1000 ∧ n = 4 ∧ a % 4 = 0) →
      (∀ id ∈ [MemId.buf, .pw, .ks], ¬ (id.base ≤ a ∧ a + n ≤ id.base + id.size State.reset.cfg ∧ a % n = 0)) →
      ¬ legalAccess State.reset.cfg a n := by
    rintro a n h1 h2 (h | ⟨id, h⟩)
    · exact h1 h
    · exact h2 id (by cases id <;> simp) h
  exact ⟨by decide, h _ _ (by decide) (by decide), h _ _ (by decide) (by decide), h _ _ (by decide) (by decide),
    .inl (by decide), .inr ⟨.buf, by decide⟩, by decide, by decide⟩

/-- A window read while busy, an idle read of the last byte of KS, and an idle write of it. -/
theorem witness_ReadsHaveNoSideEffect :
    fetch (inProgress 1 (.read 0x10000000 .half)) = none ∧
    (inProgress 1 (.read 0x10000000 .half)).inbox = .read 0x10000000 .half :: [] ∧
    State.reset.cfg.legal = true ∧ legalAccess State.reset.cfg (0x10000000 : Word).toNat AccessSize.half.bytes ∧
    legalAccess State.reset.cfg (0x000010FF : Word).toNat AccessSize.byte.bytes ∧
    fetch (idleWith (.read 0x000010FF .byte)) = none ∧ (idleWith (.read 0x000010FF .byte)).busy = false ∧
    (idleWith (.read 0x000010FF .byte)).inbox = .read 0x000010FF .byte :: [] ∧
    (idleWith (.write 0x000010FF .byte 1)).inbox = .write 0x000010FF .byte 1 :: [] :=
  ⟨by decide, by decide, by decide, .inr ⟨.buf, by decide⟩, .inr ⟨.ks, by decide⟩, by decide, by decide, by decide,
    by decide⟩

/-- The last word of each memory, with the largest value, and the byte before it. -/
theorem witness_WindowWriteThenRead :
    State.reset.cfg.legal = true ∧ State.reset.busy = false ∧
    (∀ q ∈ [(MemId.buf, 65532), (.pw, 252), (.ks, 252)],
      q.2 + AccessSize.word.bytes ≤ q.1.size State.reset.cfg ∧ (q.1.base + q.2) % AccessSize.word.bytes = 0) ∧
    (0xFFFFFFFF : Word).toNat < 2 ^ (8 * AccessSize.word.bytes) ∧ 3 < AccessSize.word.bytes ∧
    ¬ (MemId.buf = .buf ∧ 65532 ≤ 65531 ∧ 65531 < 65532 + AccessSize.word.bytes) := by decide

theorem witness_PowerOnReset :
    fetch (inProgress 1 .powerOn) = none ∧ (inProgress 1 .powerOn).inbox = .powerOn :: [] := by decide

/-- Idle, and with a KEYGEN in progress, where a byte outside its region is the first one past M. -/
theorem witness_SoftReset :
    fetch (idleWith (.write 0x020 .word 4)) = none ∧
    (idleWith (.write 0x020 .word 4)).inbox = .write 0x020 .word 4 :: [] ∧ (4 : Word).getLsbD 2 = true ∧
    (idleWith (.write 0x020 .word 4)).busy = false ∧
    fetch { inProgress 1 (.write 0x020 .word 7) with cmd := 0x10 } = none ∧
    ¬ inSpan (storedSpan Regs.reset .keygen) .ks 32 := by
  refine ⟨by decide, by decide, by decide, by decide, by decide, by simp [storedSpan, inSpan, Regs.reset]⟩

theorem witness_InvariantHoldsAtReset :
    Params.reference.legal = true ∧ ({ bufSize := 4108, pwMax := 1, maxMatrix := 4096 } : Params).legal = true := by decide

theorem witness_StepKeepsTheInvariant : State.reset.Inv ∧ step State.reset = .next State.reset := by
  refine ⟨⟨by decide, fun id => by cases id <;> exact List.Pairwise.nil, fun id c h => ?_, by decide, by decide,
    by decide, by decide, by decide⟩, rfl⟩
  cases id <;> cases h

end Sys2Proof.Machine.Tests
end

section
/-! The binary64 arithmetic of 00_scope.md R14: patterns and their views, rounding to an integer, the rounded
magnitude, the operations, and O19 assembled from them. -/

namespace Sys2Proof.Machine

/-! ### Patterns and their views -/

/-- Sign, exponent and fraction by division and remainder (00_scope.md R14). -/
theorem f64View_eq (x : DWord) :
    let e := x.toNat / 2 ^ 52 % 2 ^ 11
    let f := x.toNat % 2 ^ 52
    let neg := decide (2 ^ 63 ≤ x.toNat)
    f64View x = if e = 2047 then (if f = 0 then .inf neg else .nan)
      else if e = 0 then .fin neg f 0 else .fin neg (2 ^ 52 + f) (e - 1) := by
  have hsign : x.getLsbD 63 = decide (2 ^ 63 ≤ x.toNat) :=
    x.msb_eq_getLsbD_last.symm.trans x.msb_eq_decide
  simp only [f64View, hsign, BitVec.extractLsb'_toNat, Nat.shiftRight_eq_div_pow, Nat.pow_zero, Nat.div_one]

theorem f64View_significand_lt {x : DWord} {neg : Bool} {m k : Nat} (h : f64View x = .fin neg m k) :
    m < 2 ^ 53 := by
  have hfrac : x.toNat % 2 ^ 52 < 2 ^ 52 := Nat.mod_lt _ (by decide)
  rw [f64View_eq] at h
  split at h
  · split at h <;> cases h
  · split at h <;> cases h <;> omega

theorem f64Pack_toNat {neg : Bool} {mag : Nat} (h : mag < 2 ^ 63) :
    (f64Pack neg mag).toNat = mag + if neg then 2 ^ 63 else 0 := by
  rw [f64Pack, BitVec.toNat_ofNat, Nat.mod_eq_of_lt]
  split <;> omega

theorem f64Pack_lsb {neg : Bool} {mag : Nat} (h : mag % 2 = 0) : (f64Pack neg mag).getLsbD 0 = false := by
  have heven : (mag + if neg then 2 ^ 63 else 0) % 2 = 0 := by split <;> omega
  simp only [f64Pack, BitVec.getLsbD_ofNat, Nat.testBit_zero, heven]
  rfl

/-- Below the pattern of the infinity, the view of a packed magnitude is finite. -/
theorem f64View_f64Pack {neg : Bool} {mag : Nat} (h : mag < 2047 * 2 ^ 52) :
    f64View (f64Pack neg mag) = if mag / 2 ^ 52 = 0 then .fin neg mag 0
      else .fin neg (2 ^ 52 + mag % 2 ^ 52) (mag / 2 ^ 52 - 1) := by
  have hbits := f64Pack_toNat (neg := neg) (mag := mag) (by omega)
  have hsign : decide (2 ^ 63 ≤ (f64Pack neg mag).toNat) = neg := by
    cases neg
    · exact decide_eq_false (by rw [hbits, if_neg Bool.false_ne_true]; omega)
    · exact decide_eq_true (by rw [hbits, if_pos rfl]; omega)
  have hexp : (f64Pack neg mag).toNat / 2 ^ 52 % 2 ^ 11 = mag / 2 ^ 52 := by
    rw [hbits]; split <;> omega
  have hfrac : (f64Pack neg mag).toNat % 2 ^ 52 = mag % 2 ^ 52 := by
    rw [hbits]; split <;> omega
  rw [f64View_eq, hsign, hexp, hfrac, if_neg (by omega)]
  split
  · rw [Nat.mod_eq_of_lt (by omega)]
  · rfl

/-- A significand `s` at the last place `2^k` is encoded as `k * 2^52 + s`: the leading bit of `s` is carried by the
exponent field, and so is an `s` that was rounded up to `2^53`. -/
theorem f64View_f64Pack_units {neg : Bool} {k s : Nat} (hmag : k * 2 ^ 52 + s < 2047 * 2 ^ 52) (hs : s ≤ 2 ^ 53)
    (hk : k = 0 ∨ 2 ^ 52 ≤ s) :
    ∃ m l, f64View (f64Pack neg (k * 2 ^ 52 + s)) = .fin neg m l ∧ m * 2 ^ l = s * 2 ^ k := by
  rw [f64View_f64Pack hmag]
  obtain hsub | hnormal | hcarry : s < 2 ^ 52 ∨ (2 ^ 52 ≤ s ∧ s < 2 ^ 53) ∨ s = 2 ^ 53 := by omega
  · obtain rfl : k = 0 := by omega
    rw [if_pos (by omega)]
    exact ⟨_, _, rfl, by simp⟩
  · have hexp : (k * 2 ^ 52 + s) / 2 ^ 52 = k + 1 := by omega
    have hfrac : 2 ^ 52 + (k * 2 ^ 52 + s) % 2 ^ 52 = s := by omega
    rw [hexp, hfrac, if_neg (by omega)]
    exact ⟨_, _, rfl, rfl⟩
  · have hexp : (k * 2 ^ 52 + s) / 2 ^ 52 = k + 2 := by omega
    have hfrac : 2 ^ 52 + (k * 2 ^ 52 + s) % 2 ^ 52 = 2 ^ 52 := by omega
    rw [hexp, hfrac, if_neg (by omega)]
    exact ⟨_, _, rfl, by rw [hcarry, Nat.add_sub_assoc (by decide), pow_add, pow_succ 2 52]; ring⟩

@[simp] theorem f64View_canonicalNaN : f64View canonicalNaN = .nan := by decide

@[simp] theorem f64View_f64Inf (neg : Bool) : f64View (f64Inf neg) = .inf neg := by cases neg <;> decide

@[simp] theorem f64View_f64Zero (neg : Bool) : f64View (f64Zero neg) = .fin neg 0 0 := by cases neg <;> decide

/-- The view of the pattern with the other sign bit. -/
def F64View.negate : F64View → F64View
  | .nan => .nan
  | .inf neg => .inf (!neg)
  | .fin neg m k => .fin (!neg) m k

@[simp] theorem f64View_f64Neg (x : DWord) : f64View (f64Neg x) = (f64View x).negate := by
  have hsign : (f64Neg x).getLsbD 63 = !x.getLsbD 63 := by simp [f64Neg]
  have hexp : (f64Neg x).extractLsb' 52 11 = x.extractLsb' 52 11 := by
    rw [f64Neg, BitVec.extractLsb'_xor]; exact BitVec.xor_zero
  have hfrac : (f64Neg x).extractLsb' 0 52 = x.extractLsb' 0 52 := by
    rw [f64Neg, BitVec.extractLsb'_xor]; exact BitVec.xor_zero
  simp only [f64View, hsign, hexp, hfrac]
  split
  · split <;> rfl
  · split <;> rfl

theorem f64Units_not (neg : Bool) (m k : Nat) : f64Units (!neg) m k = -f64Units neg m k := by
  cases neg <;> simp [f64Units]

/-! ### Rounding to an integer -/

/-- The rounded quotient is within half a divisor of the dividend, and even where it is half a divisor away. -/
theorem roundHalfEven_spec (n : Nat) {d : Nat} (hd : 0 < d) :
    2 * (roundHalfEven n d * d) ≤ 2 * n + d ∧ 2 * n ≤ 2 * (roundHalfEven n d * d) + d ∧
    (2 * (roundHalfEven n d * d) = 2 * n + d ∨ 2 * n = 2 * (roundHalfEven n d * d) + d →
      roundHalfEven n d % 2 = 0) := by
  have hdiv : n / d * d + n % d = n := Nat.div_add_mod' n d
  have hrem : n % d < d := Nat.mod_lt n hd
  have hup : (n / d + 1) * d = n / d * d + d := Nat.succ_mul _ _
  simp only [roundHalfEven]
  split
  · omega
  · split
    · rw [hup]; omega
    · obtain heven | hodd := Nat.mod_two_eq_zero_or_one (n / d)
      · rw [heven, Nat.add_zero]; omega
      · rw [hodd, hup]; omega

theorem roundHalfEven_le {n d c : Nat} (hd : 0 < d) (h : n ≤ c * d) : roundHalfEven n d ≤ c := by
  obtain ⟨hlow, -, -⟩ := roundHalfEven_spec n hd
  by_contra! hlt
  have hmul : (c + 1) * d ≤ roundHalfEven n d * d := Nat.mul_le_mul_right d hlt
  rw [Nat.succ_mul] at hmul
  omega

/-- An even bound is reached from half a divisor below it on: the tie goes up to it. -/
theorem le_roundHalfEven_iff {n d c : Nat} (hd : 0 < d) (hc : c % 2 = 0) :
    c ≤ roundHalfEven n d ↔ 2 * (c * d) ≤ 2 * n + d := by
  obtain ⟨hlow, hhigh, htie⟩ := roundHalfEven_spec n hd
  constructor
  · intro h
    have hmul : c * d ≤ roundHalfEven n d * d := Nat.mul_le_mul_right d h
    omega
  · intro h
    by_contra! hlt
    have hmul : (roundHalfEven n d + 1) * d ≤ c * d := Nat.mul_le_mul_right d hlt
    rw [Nat.succ_mul] at hmul
    have heven : roundHalfEven n d % 2 = 0 := htie (.inr (by omega))
    have hmul2 : (roundHalfEven n d + 2) * d ≤ c * d := Nat.mul_le_mul_right d (by omega)
    rw [Nat.add_mul] at hmul2
    omega

/-- No multiple of the divisor is nearer to the dividend than the rounded one, which is even if another is as
near. -/
theorem roundHalfEven_nearest (n j : Nat) {d : Nat} (hd : 0 < d) :
    |((roundHalfEven n d * d : Nat) : Int) - n| ≤ |((j * d : Nat) : Int) - n| ∧
    (|((roundHalfEven n d * d : Nat) : Int) - n| = |((j * d : Nat) : Int) - n| → j ≠ roundHalfEven n d →
      roundHalfEven n d % 2 = 0) := by
  obtain ⟨hlow, hhigh, htie⟩ := roundHalfEven_spec n hd
  obtain hlt | rfl | hgt := Nat.lt_trichotomy j (roundHalfEven n d)
  · have hmul : (j + 1) * d ≤ roundHalfEven n d * d := Nat.mul_le_mul_right d hlt
    rw [Nat.succ_mul] at hmul
    simp only [Int.abs_eq_natAbs]
    exact ⟨by omega, fun heq _ => htie (by omega)⟩
  · exact ⟨le_rfl, fun _ hne => absurd rfl hne⟩
  · have hmul : (roundHalfEven n d + 1) * d ≤ j * d := Nat.mul_le_mul_right d hgt
    rw [Nat.succ_mul] at hmul
    simp only [Int.abs_eq_natAbs]
    exact ⟨by omega, fun heq _ => htie (by omega)⟩

/-! ### The rounded magnitude -/

section magnitude
variable (neg : Bool) (num : Nat) {den : Nat}

/-- The exponent of the last place that `f64Magnitude` rounds to. -/
def lastPlace (num den : Nat) : Nat := (num / den).log2 - 52

/-- The significand that `f64Magnitude` rounds to. -/
def significand (num den : Nat) : Nat := roundHalfEven num (den * 2 ^ lastPlace num den)

theorem f64Magnitude_eq (num den : Nat) : f64Magnitude num den =
    min (lastPlace num den * 2 ^ 52 + significand num den) (2047 * 2 ^ 52) := rfl

theorem lastPlace_step_pos (hden : 0 < den) : 0 < den * 2 ^ lastPlace num den :=
  Nat.mul_pos hden (Nat.two_pow_pos _)

/-- The exact quotient has at most 53 bits above the last place. -/
theorem num_lt_lastPlace (hden : 0 < den) : num < 2 ^ 53 * (den * 2 ^ lastPlace num den) := by
  have hquot : num / den < 2 ^ ((num / den).log2 + 1) := Nat.lt_log2_self
  have hpow : 2 ^ ((num / den).log2 + 1) ≤ 2 ^ (53 + lastPlace num den) :=
    Nat.pow_le_pow_right (by decide) (by rw [lastPlace]; omega)
  calc num < 2 ^ (53 + lastPlace num den) * den := (Nat.div_lt_iff_lt_mul hden).mp (hquot.trans_le hpow)
    _ = 2 ^ 53 * (den * 2 ^ lastPlace num den) := by rw [pow_add]; ring

/-- Above the smallest last place, the exact quotient has 53 bits. -/
theorem lastPlace_le_num (hden : 0 < den) (hk : lastPlace num den ≠ 0) :
    2 ^ 52 * (den * 2 ^ lastPlace num den) ≤ num := by
  have hlog : 52 + lastPlace num den = (num / den).log2 := by rw [lastPlace] at hk ⊢; omega
  have hquot : 2 ^ (52 + lastPlace num den) ≤ num / den := by
    rw [hlog]
    exact Nat.log2_self_le (fun h => hk (by rw [lastPlace, h]; rfl))
  calc 2 ^ 52 * (den * 2 ^ lastPlace num den) = 2 ^ (52 + lastPlace num den) * den := by rw [pow_add]; ring
    _ ≤ num := (Nat.le_div_iff_mul_le hden).mp hquot

theorem significand_le (hden : 0 < den) : significand num den ≤ 2 ^ 53 :=
  roundHalfEven_le (lastPlace_step_pos num hden) (num_lt_lastPlace num hden).le

theorem le_significand (hden : 0 < den) (hk : lastPlace num den ≠ 0) : 2 ^ 52 ≤ significand num den := by
  refine (le_roundHalfEven_iff (lastPlace_step_pos num hden) (by decide)).mpr ?_
  have := lastPlace_le_num num hden hk
  omega

/-- The magnitude reaches the infinity exactly from half a last place past the largest finite value on. The last
place of that value is `2^2045`: only there does the rounding decide, and its tie goes up to `2^53`. -/
theorem magnitude_overflow_iff (hden : 0 < den) :
    2047 * 2 ^ 52 ≤ lastPlace num den * 2 ^ 52 + significand num den ↔ (2 ^ 54 - 1) * 2 ^ 2044 * den ≤ num := by
  have hlt := num_lt_lastPlace num hden
  have hle := significand_le num hden
  have hge := le_significand num hden
  have hnum := lastPlace_le_num num hden
  rw [mul_assoc _ (2 ^ 2044), mul_comm (2 ^ 2044)]
  obtain hk | hk | hk := Nat.lt_trichotomy (lastPlace num den) 2045
  · have hpow : den * 2 ^ lastPlace num den ≤ den * 2 ^ 2044 := by
      have hk' : lastPlace num den ≤ 2044 := by omega
      gcongr
      exact one_le_two
    generalize den * 2 ^ 2044 = u at *
    omega
  · have hiff := le_roundHalfEven_iff (n := num) (c := 2 ^ 53) (lastPlace_step_pos num hden) (by decide)
    have hdouble : den * 2 ^ lastPlace num den = 2 * (den * 2 ^ 2044) := by
      rw [hk, pow_succ 2 2044, mul_comm _ 2, mul_left_comm]
    rw [← significand, hdouble] at hiff
    rw [hk]
    generalize den * 2 ^ 2044 = u at *
    omega
  · have hpow : den * 2 ^ 2046 ≤ den * 2 ^ lastPlace num den := by
      gcongr
      exacts [one_le_two, hk]
    have hfour : den * 2 ^ 2046 = 2 ^ 2 * (den * 2 ^ 2044) := by
      rw [pow_add 2 2044 2, mul_comm _ (2 ^ 2), mul_left_comm]
    rw [hfour] at hpow
    generalize den * 2 ^ 2044 = u at *
    omega

/-- No value with at most 53 significant bits is nearer to the exact quotient than the rounded one. One whose last
place is lower than the rounded one's lies below `2^52` last places, which the quotient reaches. -/
theorem significand_nearest (hden : 0 < den) {n : Nat} (hn : n < 2 ^ 53) (l : Nat) :
    |((significand num den * 2 ^ lastPlace num den * den : Nat) : Int) - num| ≤
      |((n * 2 ^ l * den : Nat) : Int) - num| ∧
    (|((significand num den * 2 ^ lastPlace num den * den : Nat) : Int) - num| =
        |((n * 2 ^ l * den : Nat) : Int) - num| →
      n * 2 ^ l ≠ significand num den * 2 ^ lastPlace num den → significand num den % 2 = 0) := by
  have hstep := lastPlace_step_pos num hden
  have hcomm (j : Nat) : j * 2 ^ lastPlace num den * den = j * (den * 2 ^ lastPlace num den) := by ring
  obtain hl | hl := le_or_gt (lastPlace num den) l
  · have hval : n * 2 ^ l = n * 2 ^ (l - lastPlace num den) * 2 ^ lastPlace num den := by
      rw [mul_assoc, ← pow_add, Nat.sub_add_cancel hl]
    obtain ⟨hle, htie⟩ := roundHalfEven_nearest num (n * 2 ^ (l - lastPlace num den)) hstep
    rw [hval, hcomm, hcomm]
    exact ⟨hle, fun heq hne => htie heq fun h => hne (by rw [h]; rfl)⟩
  · obtain ⟨hle, -⟩ := roundHalfEven_nearest num (2 ^ 52) hstep
    have hnum := lastPlace_le_num num hden (by omega)
    have hbelow : n * 2 ^ l * den < 2 ^ 52 * (den * 2 ^ lastPlace num den) := by
      have hpow : 2 ^ (l + 1) ≤ 2 ^ lastPlace num den := Nat.pow_le_pow_right (by decide) hl
      calc n * 2 ^ l * den < 2 ^ 53 * 2 ^ l * den := by gcongr
        _ = 2 ^ 52 * (den * 2 ^ (l + 1)) := by ring
        _ ≤ 2 ^ 52 * (den * 2 ^ lastPlace num den) := by gcongr
    rw [← significand, ← hcomm] at hle
    rw [← hcomm] at hle hnum hbelow
    simp only [Int.abs_eq_natAbs] at hle ⊢
    exact ⟨by omega, fun heq _ => by omega⟩

/-- The two branches of `roundsTo` as implications: elaboration would evaluate its comparison with `2^2044`. -/
def CorrectlyRounded (neg : Bool) (num den : Nat) (r : DWord) : Prop :=
  ((2 ^ 54 - 1) * 2 ^ 2044 * den ≤ num → f64View r = .inf neg) ∧
  (¬ (2 ^ 54 - 1) * 2 ^ 2044 * den ≤ num → ∃ m k : Nat, f64View r = .fin neg m k ∧
    ∀ (y : DWord) (n l : Nat), f64View y = .fin neg n l →
      |((m * 2 ^ k * den : Nat) : Int) - num| ≤ |((n * 2 ^ l * den : Nat) : Int) - num| ∧
      (|((m * 2 ^ k * den : Nat) : Int) - num| = |((n * 2 ^ l * den : Nat) : Int) - num| → n * 2 ^ l ≠ m * 2 ^ k →
        r.getLsbD 0 = false))

theorem roundsTo_iff (neg : Bool) (num den : Nat) (r : DWord) :
    roundsTo neg num den r ↔ CorrectlyRounded neg num den r := by
  unfold roundsTo
  exact ite_prop_iff_and

/-- `f64Round` rounds correctly, whatever the exact quotient. -/
theorem f64Round_correctlyRounded (hden : 0 < den) : CorrectlyRounded neg num den (f64Round neg num den) := by
  constructor
  · intro hover
    rw [f64Round, f64Magnitude_eq, min_eq_right ((magnitude_overflow_iff num hden).mpr hover)]
    exact f64View_f64Inf neg
  · intro hfinite
    have hmag := Nat.lt_of_not_le (mt (magnitude_overflow_iff num hden).mp hfinite)
    obtain ⟨m, k, hview, hunits⟩ := f64View_f64Pack_units (neg := neg) hmag (significand_le num hden)
      (or_iff_not_imp_left.mpr (le_significand num hden))
    rw [f64Round, f64Magnitude_eq, min_eq_left hmag.le]
    refine ⟨m, k, hview, fun y n l hy => ?_⟩
    obtain ⟨hle, htie⟩ := significand_nearest num hden (f64View_significand_lt hy) l
    rw [hunits]
    exact ⟨hle, fun heq hne => f64Pack_lsb (by have := htie heq hne; omega)⟩

end magnitude

/-! ### The operations -/

section operations
variable {a b : DWord} {s t : Bool} {m k n l : Nat}

theorem fmul_correctlyRounded (ha : f64View a = .fin s m k) (hb : f64View b = .fin t n l) :
    CorrectlyRounded (s ^^ t) (m * 2 ^ k * (n * 2 ^ l)) (2 ^ 1074) (fmul a b) := by
  have hprod : m * 2 ^ k * (n * 2 ^ l) = m * n * 2 ^ (k + l) := by rw [pow_add]; ring
  simp only [fmul, ha, hb, hprod]
  exact f64Round_correctlyRounded _ _ (pow_pos two_pos 1074)

theorem fdiv_correctlyRounded (ha : f64View a = .fin s m k) (hb : f64View b = .fin t n l) (hn : n ≠ 0) :
    CorrectlyRounded (s ^^ t) (m * 2 ^ k * 2 ^ 1074) (n * 2 ^ l) (fdiv a b) := by
  simp only [fdiv, ha, hb, if_neg hn, mul_assoc, ← pow_add]
  exact f64Round_correctlyRounded _ _ (Nat.mul_pos (Nat.pos_of_ne_zero hn) (Nat.two_pow_pos _))

theorem f64View_fdiv_zero (ha : f64View a = .fin s m k) (hb : f64View b = .fin t 0 l) :
    f64View (fdiv a b) = if m = 0 then .nan else .inf (s ^^ t) := by
  simp only [fdiv, ha, hb, if_true]
  split <;> simp

theorem fadd_correctlyRounded (ha : f64View a = .fin s m k) (hb : f64View b = .fin t n l)
    (hz : f64Units s m k + f64Units t n l ≠ 0) :
    CorrectlyRounded (decide (f64Units s m k + f64Units t n l < 0)) (f64Units s m k + f64Units t n l).natAbs 1
      (fadd a b) := by
  simp only [fadd, ha, hb, if_neg hz]
  exact f64Round_correctlyRounded _ _ Nat.one_pos

theorem f64View_fadd_cancel (ha : f64View a = .fin s m k) (hb : f64View b = .fin t n l)
    (hz : f64Units s m k + f64Units t n l = 0) : f64View (fadd a b) = .fin (s && t) 0 0 := by
  simp only [fadd, ha, hb, if_pos hz, f64View_f64Zero]

theorem f64View_f64Neg_fin (hb : f64View b = .fin t n l) : f64View (f64Neg b) = .fin (!t) n l := by
  rw [f64View_f64Neg, hb, F64View.negate]

theorem fsub_correctlyRounded (ha : f64View a = .fin s m k) (hb : f64View b = .fin t n l)
    (hz : f64Units s m k - f64Units t n l ≠ 0) :
    CorrectlyRounded (decide (f64Units s m k - f64Units t n l < 0)) (f64Units s m k - f64Units t n l).natAbs 1
      (fsub a b) := by
  rw [sub_eq_add_neg, ← f64Units_not] at hz ⊢
  exact fadd_correctlyRounded ha (f64View_f64Neg_fin hb) hz

theorem f64View_fsub_cancel (ha : f64View a = .fin s m k) (hb : f64View b = .fin t n l)
    (hz : f64Units s m k - f64Units t n l = 0) : f64View (fsub a b) = .fin (s && !t) 0 0 := by
  rw [sub_eq_add_neg, ← f64Units_not] at hz
  exact f64View_fadd_cancel ha (f64View_f64Neg_fin hb) hz

theorem f64View_fmul_nan (h : f64View a = .nan ∨ f64View b = .nan) : f64View (fmul a b) = .nan := by
  obtain ha | hb := h
  · simp [fmul, ha]
  · cases ha : f64View a <;> simp [fmul, ha, hb]

theorem f64View_fdiv_nan (h : f64View a = .nan ∨ f64View b = .nan) : f64View (fdiv a b) = .nan := by
  obtain ha | hb := h
  · simp [fdiv, ha]
  · cases ha : f64View a <;> simp [fdiv, ha, hb]

theorem f64View_fadd_nan (h : f64View a = .nan ∨ f64View b = .nan) : f64View (fadd a b) = .nan := by
  obtain ha | hb := h
  · simp [fadd, ha]
  · cases ha : f64View a <;> simp [fadd, ha, hb]

theorem f64View_fsub_nan (h : f64View a = .nan ∨ f64View b = .nan) : f64View (fsub a b) = .nan :=
  f64View_fadd_nan (h.imp_right fun hb => by rw [f64View_f64Neg, hb, F64View.negate])

/-- Two infinities: one sign or two for the sum and the difference, NaN for the quotient. -/
theorem f64View_inf_inf (ha : f64View a = .inf s) (hb : f64View b = .inf t) :
    f64View (fmul a b) = .inf (s ^^ t) ∧ f64View (fdiv a b) = .nan ∧
    f64View (fadd a b) = (if s = t then .inf s else .nan) ∧
    f64View (fsub a b) = (if s = t then .nan else .inf s) := by
  refine ⟨by simp [fmul, ha, hb], by simp [fdiv, ha, hb], ?_, ?_⟩
  · simp only [fadd, ha, hb]
    split <;> simp
  · simp only [fsub, fadd, f64View_f64Neg, ha, hb, F64View.negate]
    cases s <;> cases t <;> simp

/-- An infinity before and after a finite value. -/
theorem f64View_inf_fin (ha : f64View a = .inf s) (hb : f64View b = .fin t n l) :
    f64View (fmul a b) = (if n = 0 then .nan else .inf (s ^^ t)) ∧
    f64View (fmul b a) = (if n = 0 then .nan else .inf (s ^^ t)) ∧
    f64View (fdiv a b) = .inf (s ^^ t) ∧ f64View (fdiv b a) = .fin (s ^^ t) 0 0 ∧
    f64View (fadd a b) = .inf s ∧ f64View (fadd b a) = .inf s ∧
    f64View (fsub a b) = .inf s ∧ f64View (fsub b a) = .inf (!s) := by
  refine ⟨?_, ?_, ?_, ?_, ?_, ?_, ?_, ?_⟩
  · simp only [fmul, ha, hb]
    split <;> simp
  · simp only [fmul, ha, hb, Bool.xor_comm t s]
    split <;> simp
  · simp [fdiv, ha, hb]
  · simp [fdiv, ha, hb, Bool.xor_comm t s]
  · simp [fadd, ha, hb]
  · simp [fadd, ha, hb]
  · simp [fsub, fadd, ha, hb, F64View.negate]
  · simp [fsub, fadd, ha, hb, F64View.negate]

end operations

/-- Settles O19: the rounding is correct for every exact quotient (`f64Round_correctlyRounded`), every operation rounds its
exact result with it, and the special values follow case by case. -/
theorem binaryRoundingIsToNearestEven : Obligations.BinaryRoundingIsToNearestEven := by
  simp only [Obligations.BinaryRoundingIsToNearestEven, roundsTo_iff]
  refine ⟨f64View_eq, fun neg num _ hden => f64Round_correctlyRounded neg num hden,
    fun n => f64Round_correctlyRounded false _ Nat.one_pos, fun a b s t m k n l ha hb => ?_,
    fun a b h => ⟨f64View_fmul_nan h, f64View_fdiv_nan h, f64View_fadd_nan h, f64View_fsub_nan h⟩,
    fun _ _ _ _ => f64View_inf_inf, fun _ _ _ _ _ _ => f64View_inf_fin⟩
  refine ⟨fmul_correctlyRounded ha hb, fdiv_correctlyRounded ha hb, ?_, ⟨fadd_correctlyRounded ha hb, f64View_fadd_cancel ha hb⟩,
    fsub_correctlyRounded ha hb, f64View_fsub_cancel ha hb⟩
  rintro rfl
  exact f64View_fdiv_zero ha hb

end Sys2Proof.Machine
end

section
/-! Registers through the host port (10_state.md R32 to R59): which register an access reaches, what a register write
can do, and what the word reads of CTRL and STATUS hold. -/

namespace Sys2Proof.Machine

/-! ### The register map -/

/-- Every entry of the map is an aligned word of the REG region. -/
theorem regAt_aligned {a : Nat} {r : Reg} (h : regAt a = some r) : a < 0x1000 ∧ a % 4 = 0 := by
  obtain ⟨pre, post, hmap, -⟩ := List.lookup_eq_some_iff.mp h
  have hmem : (a, r) ∈ regMap := by simp [hmap]
  have hall : ∀ e ∈ regMap, e.1 < 0x1000 ∧ e.1 % 4 = 0 := by decide
  exact hall _ hmem

/-- No register has two offsets. -/
theorem regAt_inj {a b : Nat} {r : Reg} (ha : regAt a = some r) (hb : regAt b = some r) : a = b := by
  obtain ⟨pre, post, hmap, -⟩ := List.lookup_eq_some_iff.mp ha
  obtain ⟨pre', post', hmap', -⟩ := List.lookup_eq_some_iff.mp hb
  have hma : (a, r) ∈ regMap := by simp [hmap]
  have hmb : (b, r) ∈ regMap := by simp [hmap']
  have hall : ∀ d ∈ regMap, ∀ e ∈ regMap, d.2 = e.2 → d.1 = e.1 := by decide
  exact hall _ hma _ hmb rfl

theorem route_reg {p : Params} {a : Nat} {r : Reg} (h : regAt a = some r) : route p a 4 = some (.register r) :=
  route_register p (regAt_aligned h).1 (regAt_aligned h).2 h

/-- An access that reaches a register is a word at that register's offset. -/
theorem route_eq_register {p : Params} {a n : Nat} {r : Reg} (h : route p a n = some (.register r)) :
    n = 4 ∧ regAt a = some r := by
  unfold route at h
  split at h
  · split at h
    · rename_i haligned
      split at h
      · rename_i hat
        cases h
        exact ⟨haligned.1, hat⟩
      · cases h
    · cases h
  · split at h
    · split at h <;> cases h
    · cases h

/-- An aligned word of the REG region that is no register is a reserved offset. -/
theorem route_reserved {p : Params} {a : Nat} (hlt : a < 0x1000) (halign : a % 4 = 0) (h : regAt a = none) :
    route p a 4 = some .reserved := by
  simp [route, hlt, halign, h]

/-! ### Accesses to a register -/

section
variable (s : State) {addr : Word} {r : Reg} (v : Word)

theorem memRead_register (h : regAt addr.toNat = some r) : memRead s addr .word = .next (s, s.readReg r) := by
  simp [memRead, AccessSize.bytes, route_reg h]

/-- The whole map at once: every entry's offset reads its register. -/
theorem memRead_regMap {e : Nat × Reg} (he : e ∈ regMap) :
    memRead s (BitVec.ofNat 32 e.1) .word = .next (s, s.readReg e.2) := by
  have hall : ∀ e ∈ regMap, regAt (BitVec.ofNat 32 e.1).toNat = some e.2 := by decide
  exact memRead_register s (hall e he)

theorem memRead_reserved (hlt : addr.toNat < 0x1000) (halign : addr.toNat % 4 = 0) (h : regAt addr.toNat = none) :
    memRead s addr .word = .next (s, 0) := by
  simp [memRead, AccessSize.bytes, route_reserved hlt halign h]

theorem memWrite_reserved_of_idle (hlt : addr.toNat < 0x1000) (halign : addr.toNat % 4 = 0)
    (h : regAt addr.toNat = none) (hb : s.busy = false) : memWrite s addr .word v = .next s := by
  simp [memWrite, AccessSize.bytes, route_reserved hlt halign h, hb]

/-- A register takes a write while idle; CTRL and STATUS take it at any time (40_control.md R146). -/
theorem memWrite_register (h : regAt addr.toNat = some r) (hw : s.busy = false ∨ r = .ctrl ∨ r = .status) :
    memWrite s addr .word v = .next (s.writeReg r v) := by
  simp only [memWrite, AccessSize.bytes, route_reg h]
  obtain hb | rfl | rfl := hw
  · simp [hb]
  · simp
  · simp

end

/-! ### What a register write can do -/

/-- The operand registers that store every value: all but MATRIX_SIZE (10_state.md R59). -/
def plainOperands : List Reg :=
  [.pwLen, .addr, .len, .step, .seedLo, .seedHi, .tseedLo, .tseedHi, .lowLo, .lowHi, .highLo, .highHi]

/-- The read-only registers (10_state.md R55). -/
def readOnlyRegs : List Reg :=
  [.id, .version, .cfgBufSize, .cfgPwMax, .cfgMaxMatrix, .stateLo, .stateHi, .resLo, .resHi, .outLen]

theorem writeReg_of_readOnly {r : Reg} (hr : r ∈ readOnlyRegs) (s : State) (v : Word) : s.writeReg r v = s := by
  fin_cases hr <;> rfl

/-- A write to an operand register changes the operand registers alone, and not MATRIX_SIZE. -/
theorem writeReg_of_plainOperand {r : Reg} (hr : r ∈ plainOperands) (s : State) (v : Word) :
    s.writeReg r v = { s with regs := (s.writeReg r v).regs } ∧
    (s.writeReg r v).regs.matrixSize = s.regs.matrixSize := by
  fin_cases hr <;> exact ⟨rfl, rfl⟩

/-- What every register reads after a write to an operand register. -/
theorem readReg_writeReg {r : Reg} (hr : r ∈ plainOperands) (s : State) (v : Word) (q : Reg) :
    (s.writeReg r v).readReg q = if q = r then v else s.readReg q := by
  fin_cases hr <;> cases q <;> rfl

/-- Everything a write of `v` to a register can make of the state `s`, by the register. -/
inductive RegWriteEffect (s : State) (v : Word) : Reg → State → Prop
  /-- a read-only register, or 0 to MATRIX_SIZE -/
  | ignored (r : Reg) : RegWriteEffect s v r s
  | softReset (hsrst : v.getLsbD 2 = true) : RegWriteEffect s v .ctrl s.softReset
  | control (hsrst : v.getLsbD 2 = false) :
      RegWriteEffect s v .ctrl { s with ie := v.getLsbD 0, tsrc := v.getLsbD 1 }
  | status : RegWriteEffect s v .status (s.writeStatus v)
  | command : RegWriteEffect s v .cmd (s.accept v (Config.latency s.draws))
  | tooLarge : RegWriteEffect s v .matrixSize s.setWign
  | matrixSize (hpos : v.toNat ≠ 0) (hmax : v.toNat ≤ s.cfg.maxMatrix) :
      RegWriteEffect s v .matrixSize { s with regs := { s.regs with matrixSize := v } }
  | operand (r : Reg) (hr : r ∈ plainOperands) (g : Regs) (hg : g.matrixSize = s.regs.matrixSize) :
      RegWriteEffect s v r { s with regs := g }

section
variable (s : State) (v : Word)

theorem writeCtrl_of_srst (h : v.getLsbD 2 = true) : s.writeCtrl v = s.softReset := if_pos h

theorem writeCtrl_of_no_srst (h : v.getLsbD 2 = false) :
    s.writeCtrl v = { s with ie := v.getLsbD 0, tsrc := v.getLsbD 1 } := if_neg (by rw [h]; decide)

theorem writeMatrixSize_of_zero (h : v.toNat = 0) : s.writeMatrixSize v = s :=
  if_pos (BitVec.eq_of_toNat_eq h)

theorem writeMatrixSize_of_too_large (h0 : v.toNat ≠ 0) (h : s.cfg.maxMatrix < v.toNat) :
    s.writeMatrixSize v = s.setWign := by
  have hne : v ≠ 0 := fun he => h0 (by rw [he]; rfl)
  rw [State.writeMatrixSize, if_neg hne, if_pos h]

theorem writeMatrixSize_of_legal (h0 : v.toNat ≠ 0) (h : v.toNat ≤ s.cfg.maxMatrix) :
    s.writeMatrixSize v = { s with regs := { s.regs with matrixSize := v } } := by
  have hne : v ≠ 0 := fun he => h0 (by rw [he]; rfl)
  rw [State.writeMatrixSize, if_neg hne, if_neg (Nat.not_lt.mpr h)]

theorem writeCtrl_effect : RegWriteEffect s v .ctrl (s.writeCtrl v) := by
  cases h : v.getLsbD 2 with
  | true => rw [writeCtrl_of_srst s v h]; exact .softReset h
  | false => rw [writeCtrl_of_no_srst s v h]; exact .control h

theorem writeMatrixSize_effect : RegWriteEffect s v .matrixSize (s.writeMatrixSize v) := by
  by_cases h0 : v.toNat = 0
  · rw [writeMatrixSize_of_zero s v h0]; exact .ignored _
  · by_cases hmax : s.cfg.maxMatrix < v.toNat
    · rw [writeMatrixSize_of_too_large s v h0 hmax]; exact .tooLarge
    · rw [writeMatrixSize_of_legal s v h0 (Nat.not_lt.mp hmax)]; exact .matrixSize h0 (Nat.not_lt.mp hmax)

theorem writeReg_effect (r : Reg) : RegWriteEffect s v r (s.writeReg r v) := by
  have hkinds : r = .ctrl ∨ r = .status ∨ r = .cmd ∨ r = .matrixSize ∨ r ∈ readOnlyRegs ∨ r ∈ plainOperands := by
    cases r <;> decide
  obtain rfl | rfl | rfl | rfl | hro | hop := hkinds
  · exact writeCtrl_effect s v
  · exact .status
  · exact .command
  · exact writeMatrixSize_effect s v
  · rw [writeReg_of_readOnly hro]; exact .ignored r
  · obtain ⟨hwrite, hsize⟩ := writeReg_of_plainOperand hop s v
    rw [hwrite]
    exact .operand r hop _ hsize

end

/-! ### The bits of CTRL and STATUS -/

theorem bit_le_one (b : Bool) : bit b ≤ 1 := by cases b <;> decide

/-- A bit of a word that is a flag of the block. -/
theorem getLsbD_eq_flag {x : Word} {i : Nat} {b : Bool} (h : x.toNat / 2 ^ i % 2 = bit b) : x.getLsbD i = b := by
  rw [BitVec.getLsbD, Nat.testBit_eq_decide_div_mod_eq, h]
  cases b <;> rfl

theorem extractLsb'_eq_field {x : Word} {start len : Nat} {f : BitVec len}
    (h : x.toNat / 2 ^ start % 2 ^ len = f.toNat) : x.extractLsb' start len = f :=
  BitVec.eq_of_toNat_eq (by rw [BitVec.extractLsb'_toNat, Nat.shiftRight_eq_div_pow, h])

theorem extractLsb'_eq_zero {x : Word} {start len : Nat} (h : x.toNat / 2 ^ start % 2 ^ len = 0) :
    x.extractLsb' start len = 0 :=
  extractLsb'_eq_field (h.trans BitVec.toNat_zero.symm)

theorem statusWord_toNat (s : State) :
    s.statusWord.toNat = bit s.busy + 2 * bit s.done + 4 * bit s.wign + 256 * s.err.toNat := by
  have := bit_le_one s.busy
  have := bit_le_one s.done
  have := bit_le_one s.wign
  have := s.err.isLt
  rw [State.statusWord, BitVec.toNat_ofNat, Nat.mod_eq_of_lt (by omega)]

theorem ctrlWord_toNat (s : State) : s.ctrlWord.toNat = bit s.ie + 2 * bit s.tsrc := by
  have := bit_le_one s.ie
  have := bit_le_one s.tsrc
  rw [State.ctrlWord, BitVec.toNat_ofNat, Nat.mod_eq_of_lt (by omega)]

theorem statusWord_fields (s : State) :
    s.statusWord.getLsbD 0 = s.busy ∧ s.statusWord.getLsbD 1 = s.done ∧ s.statusWord.getLsbD 2 = s.wign ∧
    s.statusWord.extractLsb' 3 5 = 0 ∧ s.statusWord.extractLsb' 8 8 = s.err ∧ s.statusWord.extractLsb' 16 16 = 0 := by
  have hword := statusWord_toNat s
  have hbusy := bit_le_one s.busy
  have hdone := bit_le_one s.done
  have hwign := bit_le_one s.wign
  have herr := s.err.isLt
  refine ⟨getLsbD_eq_flag ?_, getLsbD_eq_flag ?_, getLsbD_eq_flag ?_, extractLsb'_eq_zero ?_, extractLsb'_eq_field ?_,
    extractLsb'_eq_zero ?_⟩ <;> omega

theorem ctrlWord_fields (s : State) :
    s.ctrlWord.getLsbD 0 = s.ie ∧ s.ctrlWord.getLsbD 1 = s.tsrc ∧ s.ctrlWord.extractLsb' 2 30 = 0 := by
  have hword := ctrlWord_toNat s
  have hie := bit_le_one s.ie
  have htsrc := bit_le_one s.tsrc
  refine ⟨getLsbD_eq_flag ?_, getLsbD_eq_flag ?_, extractLsb'_eq_zero ?_⟩ <;> omega

/-- A 64-bit register is its high half and its low half (10_state.md R50, R51). -/
theorem dword_eq_halves (x : DWord) :
    x.toNat = (x.extractLsb' 32 32).toNat * 2 ^ 32 + (x.extractLsb' 0 32).toNat := by
  have := x.isLt
  simp only [BitVec.extractLsb'_toNat, Nat.shiftRight_eq_div_pow]
  omega

end Sys2Proof.Machine
end

section
/-! What a command may do before it completes, said once for the fifteen commands, and what an abort may touch. -/

namespace Sys2Proof.Machine

/-- The sampled MATRIX_SIZE is one the register can hold (10_state.md R40). -/
def State.msizeLegal (s : State) : Prop := 1 ≤ s.msize ∧ s.msize ≤ s.cfg.maxMatrix

/-- What the command `i` can make of the state `s` before it completes: it stores inside the memories, draws free
bytes, and writes RES and OUT_LEN, and STATE if it is a command of 41_prng.md. -/
inductive CommandEffect (i : Instr) (s : State) : State → Prop
  | start : CommandEffect i s s
  | store {u : State} (hu : CommandEffect i s u) (id : MemId) (a : Nat) (bs : List Byte)
      (hfits : s.msizeLegal → a + bs.length ≤ id.size s.cfg) : CommandEffect i s (u.store id a bs)
  | draw {u : State} (hu : CommandEffect i s u) (n : Nat) : CommandEffect i s { u with draws := n }
  | outLen {u : State} (hu : CommandEffect i s u) (n : Word) : CommandEffect i s { u with outLen := n }
  | prng {u : State} (hi : writesState i = true) (hu : CommandEffect i s u) (p r : DWord) :
      CommandEffect i s { u with prng := p, res := r }

/-- A command completes with some code, after effects it may have. -/
def CompletesWithEffect (i : Instr) (s t : State) : Prop :=
  ∃ (u : State) (e : ErrCode), CommandEffect i s u ∧ t = u.complete e

section
variable {i : Instr} {s : State}

theorem CommandEffect.completes {u : State} (hu : CommandEffect i s u) (e : ErrCode) :
    CompletesWithEffect i s (u.complete e) := ⟨u, e, hu, rfl⟩

theorem raise_completes (e : ErrCode) : CompletesWithEffect i s (s.raise e) := CommandEffect.start.completes e

theorem raiseFramed_completes (e : ErrCode) : CompletesWithEffect i s (s.raiseFramed e) :=
  (CommandEffect.start.outLen 0).completes e

theorem drawResult_completes (hi : writesState i = true) (r p : DWord) :
    CompletesWithEffect i s (s.drawResult r p) := (CommandEffect.start.prng hi p r).completes .ok

theorem CommandEffect.scramble {u : State} (hu : CommandEffect i s u) (id : MemId) (a n : Nat)
    (hfits : s.msizeLegal → a + n ≤ id.size s.cfg) : CommandEffect i s (u.scramble id a n) :=
  (hu.store id a (u.freeBytes n) (by simpa using hfits)).draw _

theorem regionFits_iff {p : Params} {r : Regs} :
    regionFits p r = true ↔ r.addr.toNat + r.len.toNat ≤ p.bufSize := by simp [regionFits]

@[simp] theorem State.region_length (s : State) : s.region.length = s.op.regs.len.toNat := by simp [State.region]

@[simp] theorem State.mixKey_length (s : State) : s.mixKey.length = s.msize := by simp [State.mixKey]

theorem permuteRegion_completes {f : List Byte → DWord → Nat → List Byte}
    (hf : ∀ d seed n, (f d seed n).length = d.length) : CompletesWithEffect i s (permuteRegion f s) := by
  obtain ⟨-, h⟩ | ⟨-, -, h⟩ | ⟨hfits, -, h⟩ := permuteRegion_cases f s <;> rw [h]
  · exact raise_completes _
  · exact raise_completes _
  · refine (CommandEffect.start.store .buf _ _ fun _ => ?_).completes .ok
    rw [hf, State.region_length]
    exact regionFits_iff.mp hfits

theorem mixRegion_completes {f : Nat → List Byte → List Byte → List Byte}
    (hf : ∀ {m : Nat} {b key : List Byte}, b.length % m = 0 → key.length = m → (f m b key).length = b.length) :
    CompletesWithEffect i s (mixRegion f s) := by
  obtain ⟨-, h⟩ | ⟨-, -, h⟩ | ⟨hfits, hlen, h⟩ := mixRegion_cases f s <;> rw [h]
  · exact raise_completes _
  · exact raise_completes _
  · refine (CommandEffect.start.store .buf _ _ fun _ => ?_).completes .ok
    rw [hf (by rw [State.region_length, hlen]) s.mixKey_length, State.region_length]
    exact regionFits_iff.mp hfits

theorem execPrngBytes_completes {t : State} (h : execPrngBytes s = .next t) :
    CompletesWithEffect .prngBytes s t := by
  obtain ⟨-, hx⟩ | ⟨hfits, hx⟩ := execPrngBytes_cases s <;> rw [hx] at h <;> cases h
  · exact raise_completes _
  · refine CommandEffect.completes (.prng rfl (.store .start .buf _ _ fun _ => ?_) _ _) .ok
    rw [getRandomBytes_length]
    exact regionFits_iff.mp hfits

theorem execKeygen_completes {t : State} (h : execKeygen s = .next t) : CompletesWithEffect i s t := by
  obtain ⟨-, hx⟩ | ⟨-, hx⟩ := execKeygen_cases s <;> rw [hx] at h <;> cases h
  · exact raise_completes _
  · refine (CommandEffect.start.store .ks 0 _ fun hm => ?_).completes .ok
    rw [keystream_length, Nat.zero_add]
    exact hm.2

/-- The token has the length that ENCRYPT checks against BUF (45_engine.md R240, R251). -/
theorem encryptToken_length {m : Nat} (hm : 1 ≤ m) (payload pw : List Byte) (ts : DWord) :
    (encryptToken m payload pw ts).length = tokenLen m payload.length := by
  have hframe := framedBuffer_length m (randomPrefix ts) payload (randomPrefix_length ts)
  have hwhole : (framedBuffer m (randomPrefix ts) payload).length % m = 0 := by
    rw [hframe]; exact padLen_completes hm _
  simp only [encryptToken, List.length_append, scrambleFrame_length hwhole (keystream_length m pw), hframe,
    beBytes_length, tokenLen]
  omega

theorem execEncrypt_completes {t : State} (h : execEncrypt s = .next t) : CompletesWithEffect i s t := by
  obtain ⟨-, hx⟩ | ⟨-, -, hx⟩ | ⟨-, hfits, hx⟩ := execEncrypt_cases s <;> rw [hx] at h <;> cases h
  · exact raiseFramed_completes _
  · exact raiseFramed_completes _
  · refine CommandEffect.completes (.outLen (.store .start .buf _ _ fun hm => ?_) _) .ok
    rw [State.token, encryptToken_length hm.1, State.region_length]
    simpa [tokenFits, State.msize, MemId.size] using hfits

/-- A payload is shorter than its token (45_engine.md R258, R259). -/
theorem decryptToken_payload_length {m : Nat} {e pw p : List Byte} (h : decryptToken m e pw = .payload p) :
    p.length ≤ e.length := by
  unfold decryptToken at h
  split at h
  · cases h
  · simp only at h
    split at h
    · cases h
    · split at h
      · cases h
      · rename_i hlen
        cases h
        simp only [List.length_take]
        omega

theorem execDecrypt_completes {t : State} (h : execDecrypt s = .next t) : CompletesWithEffect i s t := by
  obtain ⟨-, hx⟩ | ⟨hfits, hx⟩ := execDecrypt_cases s
  · rw [hx] at h
    cases h
    exact raiseFramed_completes _
  · have hregion := regionFits_iff.mp (Bool.and_eq_true_iff.mp hfits).2
    obtain ⟨-, hx⟩ | ⟨-, hx⟩ | ⟨p, hp, hx⟩ := hx <;> rw [hx] at h <;> cases h
    · exact raiseFramed_completes _
    · exact CommandEffect.completes (.outLen (.scramble .start .buf _ _ fun _ => hregion) 0) .invalidTokenLength
    · have hplen := decryptToken_payload_length hp
      rw [State.region_length] at hplen
      refine CommandEffect.completes (.outLen (.scramble (.store .start .buf _ _ fun _ => ?_) .buf _ _ fun _ => ?_) _) .ok
      all_goals simp only [MemId.size]; omega

end

/-- Every command completes after effects it may have, with the arms of the dispatch in the order of the table. -/
theorem exec_completes {i : Instr} {s t : State} (h : exec i s = .next t) : CompletesWithEffect i s t := by
  cases i with
  | nop => cases h; exact CommandEffect.start.completes .ok
  | prngSeed => cases h; exact (CommandEffect.start.prng rfl _ _).completes .ok
  | prngTseed => cases h; exact (CommandEffect.start.prng rfl _ _).completes .ok
  | prngU32 => cases h; exact drawResult_completes rfl _ _
  | prngU64 => cases h; exact drawResult_completes rfl _ _
  | prngF64 => cases h; exact drawResult_completes rfl _ _
  | prngRange => cases h; exact drawResult_completes rfl _ _
  | prngBytes => exact execPrngBytes_completes h
  | keygen => exact execKeygen_completes h
  | shuffle => cases h; exact permuteRegion_completes shuffle_length
  | unshuffle => cases h; exact permuteRegion_completes unshuffle_length
  | mix => cases h; exact mixRegion_completes mix_length
  | unmix => cases h; exact mixRegion_completes unmix_length
  | encrypt => exact execEncrypt_completes h
  | decrypt => exact execDecrypt_completes h

/-- A command outside 41_prng.md leaves STATE as it was (10_state.md R50). -/
theorem CommandEffect.prng_eq {i : Instr} {s u : State} (hi : writesState i = false) (hu : CommandEffect i s u) :
    u.prng = s.prng := by
  induction hu with
  | start => rfl
  | store _ id a bs _ ih => rw [State.store_prng, ih]
  | draw _ _ ih => exact ih
  | outLen _ _ ih => exact ih
  | prng hw => rw [hi] at hw; cases hw

theorem exec_prng {i : Instr} {s t : State} (hi : writesState i = false) (h : exec i s = .next t) :
    t.prng = s.prng := by
  obtain ⟨u, e, hu, rfl⟩ := exec_completes h
  exact (hu.prng_eq hi :)

/-! ### The span of an abort -/

/-- An abort touches the span its command could store to, in BUF cut at the end of the memory
(70_reset_and_hazards.md R312 (c)). -/
theorem abortRegion_cases {p : Params} {r : Regs} {i : Instr} {id : MemId} {a n : Nat}
    (h : abortRegion p r i = some (id, a, n)) :
    ∃ m, storedSpan r i = some (id, a, m) ∧
      (id = .buf ∧ n = min (a + m) p.bufSize - a ∨ id = .ks ∧ a = 0 ∧ n = m ∧ m = r.matrixSize.toNat) := by
  cases i with
  | keygen => cases h; exact ⟨_, rfl, .inr ⟨rfl, rfl, rfl, rfl⟩⟩
  | prngBytes | shuffle | unshuffle | mix | unmix | encrypt | decrypt => cases h; exact ⟨_, rfl, .inl ⟨rfl, rfl⟩⟩
  | nop | prngSeed | prngTseed | prngU32 | prngU64 | prngF64 | prngRange => cases h

theorem abortSpan_eq_some {s : State} {id : MemId} {a n : Nat} (h : s.abortSpan = some (id, a, n)) :
    s.busy = true ∧ ∃ i, decode s.cmd = .ok i ∧ abortRegion s.cfg s.op.regs i = some (id, a, n) := by
  unfold State.abortSpan at h
  split at h
  · rename_i hb
    split at h
    · rename_i i hi
      exact ⟨hb, i, hi, h⟩
    · cases h
  · cases h

/-- An abort keeps every byte that the command in progress could not store to. -/
theorem abort_byte {s : State} {id : MemId} {x : Nat}
    (h : ¬ (s.busy = true ∧ ∃ i, decode s.cmd = .ok i ∧ inSpan (storedSpan s.op.regs i) id x)) :
    s.abort.byte id x = s.byte id x := by
  obtain ⟨-, habort⟩ | ⟨j, a, n, hspan, habort⟩ := abort_cases s
  · rw [habort]
  · rw [habort]
    refine State.byte_scramble_of_outside s j id a n x fun hin => h ?_
    obtain ⟨hb, i, hi, hregion⟩ := abortSpan_eq_some hspan
    obtain ⟨m, hstored, hcut⟩ := abortRegion_cases hregion
    refine ⟨hb, i, hi, ?_⟩
    rw [hstored]
    exact ⟨hin.1, hin.2.1, by omega⟩

@[simp] theorem abort_epoch (s : State) : s.abort.epoch = s.epoch := by
  obtain ⟨-, h⟩ | ⟨id, a, n, -, h⟩ := abort_cases s <;> simp [h]

@[simp] theorem softReset_mem (s : State) (id : MemId) : s.softReset.mem id = s.abort.mem id := by
  cases id <;> rfl

end Sys2Proof.Machine
end

section
/-! The invariant: it holds after every reset, and each operation of a transition keeps it. -/

namespace Sys2Proof.Machine

/-! ### After a reset -/

/-- The invariant of a state whose registers and hidden state are those of a reset, whatever its memories hold. -/
theorem inv_of_reset_registers {t : State} (hcfg : t.cfg.legal = true) (hwf : ∀ id, (t.mem id).wf)
    (hbounded : ∀ id, ∀ c ∈ t.mem id, c.1 < id.size t.cfg) (hregs : t.regs = Regs.reset) (herr : t.err = 0)
    (hbusy : t.busy = false) (hop : t.op = Operands.idle) (hleft : t.left = 0) : t.Inv where
  cfgLegal := hcfg
  memWf := hwf
  memBounded := hbounded
  matrixLegal := by
    have hmin : 32 ≤ t.cfg.maxMatrix := by
      simp only [Params.legal, Bool.and_eq_true, decide_eq_true_eq] at hcfg
      omega
    rw [hregs]
    exact ⟨by decide, hmin⟩
  errLegal := by rw [herr]; decide
  busyFlags hb := by rw [hbusy] at hb; cases hb
  busyOperands hb := by rw [hbusy] at hb; cases hb
  idleHidden _ := ⟨hop, hleft⟩

theorem resetOf_inv {p : Params} (h : p.legal = true) : (State.resetOf p).Inv :=
  inv_of_reset_registers h (resetOf_memories_wf p) (fun id c hc => by cases id <;> cases hc) rfl rfl rfl rfl rfl

theorem inv_powerOn {s : State} (h : s.Inv) : s.powerOn.Inv := { resetOf_inv h.cfgLegal with }

/-! ### The operations on the state -/

/-- A store of nothing adds no cell. -/
theorem Memory.mem_of_mem_store_nil {m : Memory} {a : Nat} {c : Host.Cell} (hc : c ∈ m.store a []) : c ∈ m := by
  simp only [Memory.store, cellsFrom, List.append_nil, List.mem_append, List.mem_filter] at hc
  obtain ⟨hm, -⟩ | ⟨hm, -⟩ := hc <;> exact hm

section
variable {s : State} (h : s.Inv)
include h

theorem inv_respond (r : BusResponse) : (s.respond r).Inv := { h with }

theorem inv_oneDraw : s.oneDraw.Inv := { h with }

theorem inv_setWign : s.setWign.Inv := { h with }

theorem inv_tick (rest : List HostEvent) : (s.tick rest).Inv :=
  { h with idleHidden := fun hb => ⟨(h.idleHidden hb).1, by rw [State.tick_left, (h.idleHidden hb).2]⟩ }

theorem inv_writeStatus (v : Word) : (s.writeStatus v).Inv :=
  { h with busyFlags := fun hb => ⟨by simp [(h.busyFlags hb).1], (h.busyFlags hb).2⟩ }

theorem inv_complete (e : ErrCode) : (s.complete e).Inv :=
  { h with
    errLegal := by cases e <;> rfl
    busyFlags := nofun
    busyOperands := nofun
    idleHidden := fun _ => ⟨rfl, rfl⟩ }

theorem inv_accept (w : Word) (n : Nat) : (s.accept w n).Inv :=
  { h with
    errLegal := rfl
    busyFlags := fun _ => ⟨rfl, rfl⟩
    busyOperands := fun _ => rfl
    idleHidden := nofun }

/-- A store of nothing may begin anywhere: an abort's span is empty when ADDR is past the end of BUF. -/
theorem inv_store {id : MemId} {a : Nat} {bs : List Byte} (hfits : bs = [] ∨ a + bs.length ≤ id.size s.cfg) :
    (s.store id a bs).Inv := by
  have hwritten : ∀ c ∈ (s.mem id).store a bs, c.1 < id.size s.cfg := by
    obtain rfl | hfits := hfits
    · exact fun c hc => h.memBounded id c (Memory.mem_of_mem_store_nil hc)
    · exact Memory.store_bounded (h.memBounded id) hfits
  have hbounded : ∀ j, ∀ c ∈ (s.store id a bs).mem j, c.1 < j.size s.cfg := by
    intro j
    rw [State.store_mem]
    split
    · rename_i hj
      exact hj ▸ hwritten
    · exact h.memBounded j
  exact {
    cfgLegal := by simpa using h.cfgLegal
    memWf := State.store_keeps_wf h.memWf id a bs
    memBounded := by simpa using hbounded
    matrixLegal := by simpa using h.matrixLegal
    errLegal := by simpa using h.errLegal
    busyFlags := by simpa using h.busyFlags
    busyOperands := by simpa using h.busyOperands
    idleHidden := by simpa using h.idleHidden }

theorem inv_scramble {id : MemId} {a n : Nat} (hfits : n = 0 ∨ a + n ≤ id.size s.cfg) : (s.scramble id a n).Inv := by
  have hstore : (s.store id a (s.freeBytes n)).Inv := by
    refine inv_store h ?_
    rw [← List.length_eq_zero_iff, State.freeBytes_length]
    exact hfits
  exact { hstore with }

/-- An aborted command's span lies inside the memories. -/
theorem inv_abort : s.abort.Inv := by
  obtain ⟨-, habort⟩ | ⟨id, a, n, hspan, habort⟩ := abort_cases s
  · rw [habort]
    exact h
  · rw [habort]
    obtain ⟨hb, i, -, hregion⟩ := abortSpan_eq_some hspan
    have hmatrix := h.matrixLegal.2
    rw [← h.busyOperands hb] at hmatrix
    refine inv_scramble h ?_
    obtain ⟨m, -, ⟨rfl, hn⟩ | ⟨rfl, ha, hn, hm⟩⟩ := abortRegion_cases hregion <;> simp only [MemId.size] <;> omega

theorem inv_softReset : s.softReset.Inv := by
  have hcfg : s.abort.cfg = s.cfg := by
    obtain ⟨-, habort⟩ | ⟨id, a, n, -, habort⟩ := abort_cases s <;> simp [habort]
  refine inv_of_reset_registers h.cfgLegal (fun id => ?_) (fun id => ?_) rfl rfl rfl rfl rfl
  · rw [softReset_mem]
    exact (inv_abort h).memWf id
  · rw [softReset_mem, State.softReset_cfg, ← hcfg]
    exact (inv_abort h).memBounded id

/-! ### Commands and host events -/

/-- New operand registers with a legal MATRIX_SIZE, while no snapshot has to agree with them. -/
theorem inv_operands (hb : s.busy = false) {g : Regs}
    (hg : 1 ≤ g.matrixSize.toNat ∧ g.matrixSize.toNat ≤ s.cfg.maxMatrix) : ({ s with regs := g } : State).Inv :=
  { h with
    matrixLegal := hg
    busyOperands := fun hb' => absurd (hb.symm.trans hb') Bool.false_ne_true }

theorem inv_regWriteEffect {r : Reg} {v : Word} {t : State} (hw : s.busy = false ∨ r = .ctrl ∨ r = .status)
    (ht : RegWriteEffect s v r t) : t.Inv := by
  cases ht with
  | ignored => exact h
  | softReset => exact inv_softReset h
  | control => exact { h with }
  | status => exact inv_writeStatus h v
  | command => exact inv_accept h v _
  | tooLarge => exact inv_setWign h
  | matrixSize hpos hmax => exact inv_operands h (by simpa using hw) ⟨Nat.pos_of_ne_zero hpos, hmax⟩
  | operand r hr g hg =>
    have hidle : s.busy = false := by
      obtain hb | rfl | rfl := hw
      · exact hb
      · exact absurd hr (by decide)
      · exact absurd hr (by decide)
    exact inv_operands h hidle (by rw [hg]; exact h.matrixLegal)

theorem inv_memWrite {addr : Word} {n : AccessSize} {v : Word} {t : State} (ht : memWrite s addr n v = .next t) :
    t.Inv := by
  obtain ⟨-, hx⟩ | ⟨_, -, -, -, -, hx⟩ | ⟨r, -, hw, hx⟩ | ⟨-, -, hx⟩ | ⟨id, a, hroute, -, hx⟩ :=
    memWrite_cases s addr n v <;> rw [hx] at ht <;> cases ht
  · exact inv_setWign h
  · exact inv_regWriteEffect h hw (writeReg_effect s v r)
  · exact h
  · exact inv_store h (.inr (by rw [leBytes_length]; exact route_window hroute))

theorem inv_hostEvent (e : HostEvent) : (s.hostEvent e).Inv := by
  cases e with
  | read addr n =>
    obtain ⟨-, hx⟩ | ⟨_, v, -, hx | hx⟩ := hostEvent_read_cases s addr n <;> rw [hx]
    · exact inv_respond h _
    · exact inv_respond h _
    · exact inv_respond (inv_oneDraw h) _
  | write addr n v =>
    obtain ⟨-, hx⟩ | ⟨t, ht, hx⟩ := hostEvent_write_cases s addr n v <;> rw [hx]
    · exact inv_respond h _
    · exact inv_respond (inv_memWrite h ht) _
  | powerOn => exact inv_powerOn h

theorem inv_hostTurn : (hostTurn s).Inv := by
  unfold hostTurn
  split
  · exact inv_tick h []
  · exact inv_hostEvent (inv_tick h _) _

/-- While busy the sampled MATRIX_SIZE is the register's, and so is legal. -/
theorem msizeLegal_of_busy (hb : s.busy = true) : s.msizeLegal := by
  rw [State.msizeLegal, State.msize, h.busyOperands hb]
  exact h.matrixLegal

theorem inv_commandEffect {i : Instr} {u : State} (hm : s.msizeLegal) (hu : CommandEffect i s u) :
    u.Inv ∧ u.cfg = s.cfg := by
  induction hu with
  | start => exact ⟨h, rfl⟩
  | store _ id a bs hfits ih =>
    obtain ⟨hinv, hcfg⟩ := ih
    exact ⟨inv_store hinv (.inr (by rw [hcfg]; exact hfits hm)), by rw [State.store_cfg, hcfg]⟩
  | draw _ _ ih => exact ⟨{ ih.1 with }, ih.2⟩
  | outLen _ _ ih => exact ⟨{ ih.1 with }, ih.2⟩
  | prng _ _ _ _ ih => exact ⟨{ ih.1 with }, ih.2⟩

theorem inv_exec (hb : s.busy = true) {i : Instr} {t : State} (ht : exec i s = .next t) : t.Inv := by
  obtain ⟨u, e, hu, rfl⟩ := exec_completes ht
  exact inv_complete (inv_commandEffect h (msizeLegal_of_busy h hb) hu).1 e

end

end Sys2Proof.Machine
end

section
/-! The statements about 10_state.md and the resets, assembled from the lemmas above. -/

namespace Sys2Proof.Machine

/-! ### The invariant -/

/-- Settles O60: a transition is a completion, which a busy engine's operands keep inside the memories, or a turn of
the host port, and each keeps the invariant. -/
theorem stepKeepsTheInvariant : Obligations.StepKeepsTheInvariant := by
  intro s t h hstep
  obtain ⟨w, i, hfetch, -, hx⟩ | ⟨-, -, -, -, hx⟩ | ⟨-, hx⟩ := step_cases s <;> rw [hx] at hstep
  · exact inv_exec h (fetch_eq_some.mp hfetch).1 hstep
  · cases hstep
    exact inv_complete h .badCommand
  · cases hstep
    exact inv_hostTurn h

/-- Settles O59: the registers are those of a reset and the memories are empty. -/
theorem invariantHoldsAtReset : Obligations.InvariantHoldsAtReset :=
  ⟨fun _ => resetOf_inv, resetOf_inv (by decide)⟩

/-! ### STATE -/

/-- Of the register writes only one to CTRL with SRST set changes STATE. -/
theorem RegWriteEffect.prng_eq {s t : State} {v : Word} {r : Reg} (ht : RegWriteEffect s v r t)
    (hr : r = .ctrl → v.getLsbD 2 = false) : t.prng = s.prng := by
  cases ht with
  | softReset hsrst => rw [hr rfl] at hsrst; cases hsrst
  | ignored | control | status | command | tooLarge | matrixSize | operand => rfl

/-- A word write that is no reset event and reaches CTRL has SRST clear. -/
theorem srst_clear_of_route {p : Params} {addr : Word} {n : AccessSize} {v : Word}
    (hroute : route p addr.toNat n.bytes = some (.register .ctrl)) (he : isResetEvent (.write addr n v) = false) :
    v.getLsbD 2 = false := by
  obtain ⟨hn, hat⟩ := route_eq_register hroute
  have haddr : addr = 0x020 := BitVec.eq_of_toNat_eq (regAt_inj hat (by decide : regAt (0x020 : Word).toNat = some .ctrl))
  have hword : n = .word := by
    cases n with
    | word => rfl
    | byte | half => cases hn
  simpa [isResetEvent, haddr, hword] using he

theorem memWrite_prng {s t : State} {addr : Word} {n : AccessSize} {v : Word} (ht : memWrite s addr n v = .next t)
    (he : isResetEvent (.write addr n v) = false) : t.prng = s.prng := by
  obtain ⟨-, hx⟩ | ⟨_, -, -, -, -, hx⟩ | ⟨r, hroute, -, hx⟩ | ⟨-, -, hx⟩ | ⟨id, a, -, -, hx⟩ :=
    memWrite_cases s addr n v <;> rw [hx] at ht <;> cases ht
  · rfl
  · refine (writeReg_effect s v r).prng_eq ?_
    rintro rfl
    exact srst_clear_of_route hroute he
  · rfl
  · exact State.store_prng ..

/-- A host event that is no reset leaves STATE as it was. -/
theorem hostEvent_prng (s : State) {e : HostEvent} (he : isResetEvent e = false) :
    (s.hostEvent e).prng = s.prng := by
  cases e with
  | read addr n =>
    obtain ⟨-, hx⟩ | ⟨_, v, -, hx | hx⟩ := hostEvent_read_cases s addr n <;> rw [hx] <;> rfl
  | write addr n v =>
    obtain ⟨-, hx⟩ | ⟨t, ht, hx⟩ := hostEvent_write_cases s addr n v <;> rw [hx]
    · rfl
    · exact (memWrite_prng ht he : t.prng = s.prng)
  | powerOn => cases he

/-- A turn of the host port that changes STATE performs a reset. -/
theorem reset_of_hostTurn_prng_ne {s : State} (h : (hostTurn s).prng ≠ s.prng) :
    ∃ e rest, s.inbox = e :: rest ∧ isResetEvent e = true := by
  unfold hostTurn at h
  split at h
  · exact absurd rfl h
  · rename_i e rest hinbox
    refine ⟨e, rest, hinbox, ?_⟩
    by_contra he
    exact h (hostEvent_prng (s.tick rest) (Bool.eq_false_iff.mpr he))

/-- Settles O13: by the three kinds of transition; only the commands of 41_prng.md have the effect on STATE, and
only the resets among the host events. -/
theorem onlyPrngCommandsChangeState : Obligations.OnlyPrngCommandsChangeState := by
  intro s t hstep hne
  obtain ⟨w, i, hfetch, hdecode, hx⟩ | ⟨-, -, -, -, hx⟩ | ⟨hfetch, hx⟩ := step_cases s <;> rw [hx] at hstep
  · obtain ⟨-, -, rfl⟩ := fetch_eq_some.mp hfetch
    refine .inl ⟨i, hfetch, hdecode, ?_⟩
    by_contra hi
    exact hne (exec_prng (Bool.eq_false_iff.mpr hi) hstep)
  · cases hstep
    exact absurd rfl hne
  · cases hstep
    obtain ⟨e, rest, hinbox, he⟩ := reset_of_hostTurn_prng_ne hne
    exact .inr ⟨e, rest, hfetch, hinbox, he⟩

/-! ### Register reads -/

/-- Settles O45: each address reaches its register of the map, and a 64-bit register is its two halves. -/
theorem identityRegistersRead : Obligations.IdentityRegistersRead := by
  intro s
  have read {addr : Word} (r : Reg) (h : regAt addr.toNat = some r) := memRead_register s h
  exact ⟨read .id rfl, read .version rfl, read .cfgBufSize rfl, read .cfgPwMax rfl, read .cfgMaxMatrix rfl,
    read .cmd rfl, read .matrixSize rfl, read .pwLen rfl, read .addr rfl, read .len rfl, read .step rfl,
    read .seedLo rfl, read .seedHi rfl, read .tseedLo rfl, read .tseedHi rfl, read .lowLo rfl, read .lowHi rfl,
    read .highLo rfl, read .highHi rfl, read .outLen rfl, _, _, _, _, read .stateLo rfl, read .stateHi rfl,
    read .resLo rfl, read .resHi rfl, dword_eq_halves s.prng, dword_eq_halves s.res⟩

/-- Settles O50: the two words are sums of their fields at the fields' places. -/
theorem statusAndCtrlFields : Obligations.StatusAndCtrlFields := by
  intro s
  obtain ⟨hbusy, hdone, hwign, hlow, herr, hhigh⟩ := statusWord_fields s
  obtain ⟨hie, htsrc, hrest⟩ := ctrlWord_fields s
  exact ⟨s.statusWord, s.ctrlWord, memRead_register s (r := .status) rfl, memRead_register s (r := .ctrl) rfl,
    hbusy, hdone, hwign, hlow, herr, hhigh, hie, htsrc, hrest⟩

/-- Settles O56: the addresses are the offsets of the map in its order, and each register reads its reset value. -/
theorem resetRegisterValues : Obligations.ResetRegisterValues := by
  intro p
  refine ⟨?_, rfl, rfl, rfl⟩
  change List.map _ (regMap.map fun e => BitVec.ofNat 32 e.1) = _
  rw [List.map_map, List.map_congr_left (g := fun e => some ((State.resetOf p).readReg e.2)) fun e he => by
    rw [Function.comp_apply, memRead_regMap _ he]]
  simp [regMap, State.readReg, State.resetOf, Regs.reset, State.ctrlWord, State.statusWord, bit]

/-! ### Register writes -/

/-- Settles O46: an aligned word that is not in the map is a reserved offset. -/
theorem reservedOffsets : Obligations.ReservedOffsets := by
  intro s addr v hlt halign hnot
  have hreserved : regAt addr.toNat = none := by
    refine List.lookup_eq_none_iff.mpr fun e he => ?_
    have hall : ∀ e ∈ regMap, e.1 ∈ [0x000, 0x004, 0x008, 0x00C, 0x010, 0x020, 0x024, 0x028, 0x030, 0x034, 0x038, 0x03C,
      0x040, 0x048, 0x04C, 0x050, 0x054, 0x058, 0x05C, 0x060, 0x064, 0x080, 0x084, 0x088, 0x08C, 0x090] := by decide
    exact bne_iff_ne.mpr fun heq => hnot (heq ▸ hall e he)
  exact ⟨memRead_reserved s hlt halign hreserved, memWrite_reserved_of_idle s v hlt halign hreserved⟩

/-- Settles O47: each of the addresses reaches a read-only register. -/
theorem readOnlyRegistersIgnoreWrites : Obligations.ReadOnlyRegistersIgnoreWrites := by
  intro s addr v hb hmem
  obtain ⟨r, hr, hat⟩ : ∃ r ∈ readOnlyRegs, regAt addr.toNat = some r := by
    fin_cases hmem <;> exact ⟨_, by decide, rfl⟩
  rw [memWrite_register s v hat (.inl hb), writeReg_of_readOnly hr]

/-- A word read below the memories that answers a value is a read of a register or of a reserved offset, and answers
the same in every state in which that register reads the same. -/
theorem memRead_reg_congr {s t : State} {addr x : Word} (hlt : addr.toNat < 0x1000)
    (hregs : ∀ q, regAt addr.toNat = some q → t.readReg q = s.readReg q)
    (h : memRead s addr .word = .next (s, x)) : memRead t addr .word = .next (t, x) := by
  by_cases halign : addr.toNat % 4 = 0
  · cases hat : regAt addr.toNat with
    | none =>
      rw [memRead_reserved s hlt halign hat] at h
      cases h
      exact memRead_reserved t hlt halign hat
    | some q =>
      rw [memRead_register s hat] at h
      cases h
      rw [memRead_register t hat, hregs q hat]
  · have hroute : route s.cfg addr.toNat AccessSize.word.bytes = none := by
      simp [route, hlt, halign, AccessSize.bytes]
    simp [memRead, hroute] at h

/-- Settles O48: by what each register reads after a write to one of the twelve; two addresses of one register are
equal. -/
theorem operandRegistersStoreAnyValue : Obligations.OperandRegistersStoreAnyValue := by
  intro s addr v hb hmem
  obtain ⟨r, hr, hat⟩ : ∃ r ∈ plainOperands, regAt addr.toNat = some r := by
    fin_cases hmem <;> exact ⟨_, by decide, rfl⟩
  obtain ⟨hframe, -⟩ := writeReg_of_plainOperand hr s v
  refine ⟨s.writeReg r v, memWrite_register s v hat (.inl hb), ?_, fun other x hne hlt => ?_, hframe⟩
  · rw [memRead_register _ hat, readReg_writeReg hr, if_pos rfl]
  · refine memRead_reg_congr hlt fun q hq => ?_
    rw [readReg_writeReg hr, if_neg]
    rintro rfl
    exact hne (BitVec.eq_of_toNat_eq (regAt_inj hq hat))

/-- Settles O49: the three cases of the filter. -/
theorem matrixSizeFilter : Obligations.MatrixSizeFilter := by
  intro s v hb
  rw [memWrite_register s v (r := .matrixSize) rfl (.inl hb)]
  exact ⟨fun h0 => congrArg _ (writeMatrixSize_of_zero s v h0),
    fun h0 hmax => congrArg _ (writeMatrixSize_of_too_large s v h0 hmax),
    fun h0 hmax => congrArg _ (writeMatrixSize_of_legal s v h0 hmax)⟩

/-- Settles O51: STATUS and CTRL take their writes idle or busy. -/
theorem statusAndCtrlWrites : Obligations.StatusAndCtrlWrites := by
  intro s v
  refine ⟨⟨s.writeStatus v, memWrite_register s v (r := .status) rfl (.inr (.inr rfl)), rfl, ?_, ?_⟩, fun h => ?_⟩
  · simp
  · simp
  · rw [memWrite_register s v (r := .ctrl) rfl (.inr (.inl rfl)), ← writeCtrl_of_no_srst s v h]
    rfl

/-! ### Soft reset -/

/-- A CTRL write with SRST set, as a transition. -/
theorem step_of_srst {s : State} {v : Word} {rest : List HostEvent} (hfetch : fetch s = none)
    (hinbox : s.inbox = .write 0x020 .word v :: rest) (hsrst : v.getLsbD 2 = true) :
    step s = .next ((s.tick rest).softReset.respond .done) := by
  have hwrite : memWrite (s.tick rest) 0x020 .word v = .next (s.tick rest).softReset := by
    rw [memWrite_register _ v (r := .ctrl) rfl (.inr (.inl rfl)), ← writeCtrl_of_srst _ v hsrst]
    rfl
  have hturn : hostTurn s = (s.tick rest).softReset.respond .done := by
    simp only [hostTurn, hinbox, State.hostEvent, hwrite]
  simp only [step, hfetch, hturn]

/-- Settles O58: the registers are a reset's by definition, and the memories are those of the abort, which touches
only the span of a command in progress. -/
theorem softReset : Obligations.SoftReset := by
  intro s v rest hfetch hinbox hsrst
  refine ⟨_, step_of_srst hfetch hinbox hsrst, ?_, fun hb => ?_, fun id a hout => ?_⟩
  · have hpw : (s.tick rest).abort.pw = s.pw := abort_pw _
    simp only [State.softReset, State.respond, hpw]
    rfl
  · have habort : (s.tick rest).abort = s.tick rest := abort_of_idle hb
    simp [habort]
  · calc ((s.tick rest).softReset.respond .done).byte id a
        = (s.tick rest).abort.byte id a := State.byte_congr (by simp) (by simp) a
      _ = (s.tick rest).byte id a := abort_byte hout
      _ = s.byte id a := State.byte_congr (by simp) rfl a

end Sys2Proof.Machine
end

section
/-! Memory access through the host port (20_memory.md R81 to R90): which accesses are legal, what a read returns and
leaves unchanged, and what a write to a memory window stores. -/

namespace Sys2Proof.Machine

/-! ### Legal accesses -/

theorem AccessSize.bytes_pos (n : AccessSize) : 0 < n.bytes := by cases n <;> decide

/-- The used part of a memory's window lies in the window (20_memory.md R81). -/
theorem MemId.size_le_window {p : Params} (hp : p.legal = true) (id : MemId) : id.size p ≤ id.window := by
  simp only [Params.legal, Bool.and_eq_true, decide_eq_true_eq] at hp
  cases id <;> simp only [MemId.size, MemId.window] <;> omega

theorem MemId.reg_le_base (id : MemId) : 0x1000 ≤ id.base := by cases id <;> decide

theorem MemId.base_add_window_le (id : MemId) : id.base + id.window ≤ 2 ^ 32 := by cases id <;> decide

/-- A naturally aligned access inside the used part of a window goes to that memory (20_memory.md R83). -/
theorem route_base_add {p : Params} (hp : p.legal = true) {id : MemId} {a n : Nat} (hn : 0 < n)
    (hfits : a + n ≤ id.size p) (halign : (id.base + a) % n = 0) : route p (id.base + a) n = some (.window id a) := by
  have hsize := MemId.size_le_window hp id
  have hbase := id.reg_le_base
  rw [route, if_neg (by omega), windowOf_base_add id (by omega)]
  exact if_pos ⟨halign, hfits⟩

/-- The address map lets through exactly the accesses that R82 and R83 list. -/
theorem route_isSome_iff {p : Params} (hp : p.legal = true) {addr n : Nat} (hn : 0 < n) :
    (route p addr n).isSome ↔ legalAccess p addr n := by
  constructor
  · intro h
    unfold route at h
    split at h
    case isTrue hreg =>
      split at h
      case isTrue hword => exact .inl ⟨hreg, hword⟩
      case isFalse => cases h
    case isFalse =>
      split at h
      case h_1 id a hwindow =>
        split at h
        case isTrue hused =>
          obtain ⟨rfl, -⟩ := windowOf_eq_some hwindow
          exact .inr ⟨id, by omega, by omega, hused.1⟩
        case isFalse => cases h
      case h_2 => cases h
  · rintro (⟨hreg, hword⟩ | ⟨id, hbase, hfits, halign⟩)
    · rw [route, if_pos hreg, if_pos hword]
      rfl
    · obtain ⟨a, rfl⟩ := Nat.exists_eq_add_of_le hbase
      rw [route_base_add hp hn (by omega) halign]
      rfl

theorem route_of_legal {p : Params} (hp : p.legal = true) {addr : Nat} {n : AccessSize}
    (h : legalAccess p addr n.bytes) : ∃ g, route p addr n.bytes = some g :=
  Option.isSome_iff_exists.mp ((route_isSome_iff hp n.bytes_pos).mpr h)

theorem route_of_illegal {p : Params} (hp : p.legal = true) {addr : Nat} {n : AccessSize}
    (h : ¬ legalAccess p addr n.bytes) : route p addr n.bytes = none :=
  Option.not_isSome_iff_eq_none.mp (mt (route_isSome_iff hp n.bytes_pos).mp h)

/-! ### Bytes of a value -/

/-- The values that fit `n` byte lanes (20_memory.md R85). -/
theorem two_pow_lanes (n : Nat) : 2 ^ (8 * n) = 256 ^ n := pow_mul 2 8 n

theorem leBytes_getD {n k : Nat} (v : Nat) (hk : k < n) :
    (leBytes n v).getD k 0 = BitVec.ofNat 8 (v / 256 ^ k) := by
  induction n generalizing v k with
  | zero => omega
  | succ n ih =>
    cases k with
    | zero => simp [leBytes]
    | succ k => rw [leBytes, List.getD_cons_succ, ih _ (by omega), Nat.div_div_eq_div_mul, pow_succ']

/-- Byte lane `k` of a word (20_memory.md R86). -/
theorem leBytes_getD_lane {n k : Nat} (v : Word) (hk : k < n) :
    (leBytes n v.toNat).getD k 0 = v.extractLsb' (8 * k) 8 := by
  rw [leBytes_getD _ hk, BitVec.extractLsb', Nat.shiftRight_eq_div_pow, two_pow_lanes]

theorem fromLe_lt (bs : List Byte) : fromLe bs < 256 ^ bs.length := by
  induction bs with
  | nil => decide
  | cons b bs ih =>
    have hb := b.isLt
    rw [fromLe, List.length_cons, pow_succ']
    omega

/-- A stored sequence is read back from where it was stored. -/
theorem State.bytes_store_same (s : State) (id : MemId) (a : Nat) (bs : List Byte) :
    (s.store id a bs).bytes id a bs.length = bs := by
  refine List.ext_getElem? fun k => ?_
  rw [State.bytes_getElem?, State.byte_store]
  by_cases hk : k < bs.length <;> simp [hk]

/-! ### Reads -/

section
variable {s t : State} {addr v : Word} {n : AccessSize}

/-- A read changes nothing but the count of free values, and that only while the engine is busy (20_memory.md R84,
R88). -/
theorem memRead_frame (h : memRead s addr n = .next (t, v)) :
    t = { s with draws := t.draws } ∧ (s.busy = false → t = s) := by
  obtain ⟨-, hx⟩ | ⟨r, -, hx⟩ | ⟨-, hx⟩ | ⟨_, _, _, -, hb, hx⟩ | ⟨_, _, -, -, hx⟩ := memRead_cases s addr n <;>
    rw [hx] at h <;> cases h
  · exact ⟨rfl, fun _ => rfl⟩
  · exact ⟨rfl, fun _ => rfl⟩
  · exact ⟨rfl, fun hidle => absurd (hb.symm.trans hidle) (by decide)⟩
  · exact ⟨rfl, fun _ => rfl⟩

/-- The value of a read fits the access; of a register, because the access is a word. -/
theorem memRead_value_lt (h : memRead s addr n = .next (t, v)) : v.toNat < 2 ^ (8 * n.bytes) := by
  have hpos : 0 < 2 ^ (8 * n.bytes) := by positivity
  unfold memRead at h
  split at h
  case h_1 => cases h
  case h_2 r hroute =>
    rw [(route_eq_register hroute).1]
    exact v.isLt
  case h_3 =>
    cases h
    exact hpos
  case h_4 id a hroute =>
    split at h <;> cases h <;> rw [BitVec.toNat_ofNat] <;> refine (Nat.mod_le _ _).trans_lt ?_
    · exact Nat.mod_lt _ hpos
    · simpa [two_pow_lanes] using fromLe_lt (s.bytes id a n.bytes)

theorem memRead_of_route_none (h : route s.cfg addr.toNat n.bytes = none) :
    memRead s addr n = .fault (.busError addr n) := by
  simp only [memRead, h]

theorem memRead_of_route_some {g : Target} (h : route s.cfg addr.toNat n.bytes = some g) :
    ∃ p, memRead s addr n = .next p := by
  obtain ⟨hnone, -⟩ | ⟨r, -, hx⟩ | ⟨-, hx⟩ | ⟨_, _, _, -, -, hx⟩ | ⟨_, _, -, -, hx⟩ := memRead_cases s addr n
  · rw [h] at hnone; cases hnone
  all_goals exact ⟨_, hx⟩

theorem memRead_window_of_idle {id : MemId} {a : Nat} (h : route s.cfg addr.toNat n.bytes = some (.window id a))
    (hb : s.busy = false) : memRead s addr n = .next (s, BitVec.ofNat 32 (fromLe (s.bytes id a n.bytes))) := by
  simp [memRead, h, hb]

/-! ### Writes -/

theorem memWrite_of_route_none (v : Word) (h : route s.cfg addr.toNat n.bytes = none) :
    memWrite s addr n v = .fault (.busError addr n) := by
  simp only [memWrite, h]

theorem memWrite_of_route_some (v : Word) {g : Target} (h : route s.cfg addr.toNat n.bytes = some g) :
    ∃ t, memWrite s addr n v = .next t := by
  obtain ⟨hnone, -⟩ | ⟨_, -, -, -, -, hx⟩ | ⟨_, -, -, hx⟩ | ⟨-, -, hx⟩ | ⟨_, _, -, -, hx⟩ := memWrite_cases s addr n v
  · rw [h] at hnone; cases hnone
  all_goals exact ⟨_, hx⟩

theorem memWrite_window_of_idle (v : Word) {id : MemId} {a : Nat}
    (h : route s.cfg addr.toNat n.bytes = some (.window id a)) (hb : s.busy = false) :
    memWrite s addr n v = .next (s.store id a (leBytes n.bytes v.toNat)) := by
  simp [memWrite, h, hb]

/-! ### Accesses as transitions -/

/-- With no command due, the oldest host event is the transition. -/
theorem step_of_event {e : HostEvent} {rest : List HostEvent} (hfetch : fetch s = none) (hinbox : s.inbox = e :: rest) :
    step s = .next ((s.tick rest).hostEvent e) := by
  simp only [step, hfetch, hostTurn, hinbox]

theorem hostEvent_read (h : memRead s addr n = .next (t, v)) : s.hostEvent (.read addr n) = t.respond (.data v) := by
  simp only [State.hostEvent, h]

theorem hostEvent_write (h : memWrite s addr n v = .next t) : s.hostEvent (.write addr n v) = t.respond .done := by
  simp only [State.hostEvent, h]

/-- A read as a transition changes the response and the count of free values, whatever its outcome. -/
theorem hostEvent_read_frame (s : State) (addr : Word) (n : AccessSize) :
    ∃ (r : BusResponse) (d : Nat), s.hostEvent (.read addr n) = { s with bus := r, draws := d } := by
  obtain ⟨-, h⟩ | ⟨_, v, -, h | h⟩ := hostEvent_read_cases s addr n <;> exact ⟨_, _, h⟩

/-- A bus error is handed to the host and changes nothing else (20_memory.md R90). -/
theorem hostEvent_of_route_none {e : HostEvent} (he : e = .read addr n ∨ e = .write addr n v)
    (h : route s.cfg addr.toNat n.bytes = none) : s.hostEvent e = s.respond (.error (.busError addr n)) := by
  obtain rfl | rfl := he
  · simp only [State.hostEvent, memRead_of_route_none h]
  · simp only [State.hostEvent, memWrite_of_route_none v h]

end

/-! ### The statements -/

/-- Settles O53: the address map lets through exactly the legal accesses, and an access it does not let through is
only answered. -/
theorem busErrorsChangeNothing : Obligations.BusErrorsChangeNothing := by
  intro s addr n v hp
  refine ⟨fun hillegal => ?_, fun hlegal => ?_⟩
  · have hroute := route_of_illegal hp hillegal
    refine ⟨memRead_of_route_none hroute, memWrite_of_route_none v hroute, fun rest hfetch hinbox => ?_⟩
    obtain ⟨e, he, hinbox⟩ : ∃ e, (e = .read addr n ∨ e = .write addr n v) ∧ s.inbox = e :: rest :=
      hinbox.elim (⟨_, .inl rfl, ·⟩) (⟨_, .inr rfl, ·⟩)
    rw [step_of_event hfetch hinbox, hostEvent_of_route_none (s := s.tick rest) he hroute]
    rfl
  · obtain ⟨g, hroute⟩ := route_of_legal hp hlegal
    exact ⟨memRead_of_route_some hroute, memWrite_of_route_some v hroute⟩

/-- Settles O54: the event is performed on the state whose turn has begun; a read's frame is that of `memRead`. -/
theorem readsHaveNoSideEffect : Obligations.ReadsHaveNoSideEffect := by
  intro s addr n rest hfetch
  refine ⟨fun hinbox => ?_, fun w hinbox hp hlegal => ?_⟩
  · rw [step_of_event hfetch hinbox]
    refine ⟨?_, fun hp hlegal => ?_⟩
    · obtain ⟨r, d, h⟩ := hostEvent_read_frame (s.tick rest) addr n
      exact ⟨r, d, congrArg _ h⟩
    · obtain ⟨g, hroute⟩ := route_of_legal hp hlegal
      obtain ⟨⟨t, v⟩, hread⟩ := memRead_of_route_some (s := s.tick rest) hroute
      obtain ⟨hframe, hidle⟩ := memRead_frame hread
      refine ⟨v, t.draws, ?_, ?_, memRead_value_lt hread, fun hb => by rw [hidle hb, State.tick_draws]⟩
      · rw [hframe] at hread
        exact hread
      · rw [hostEvent_read hread, hframe]
        rfl
  · obtain ⟨g, hroute⟩ := route_of_legal hp hlegal
    obtain ⟨t, hwrite⟩ := memWrite_of_route_some (s := s.tick rest) w hroute
    refine ⟨t, hwrite, ?_⟩
    rw [step_of_event hfetch hinbox, hostEvent_write hwrite]
    rfl

/-- Settles O55: the write is a store of the value's bytes, and the read assembles the stored bytes again. -/
theorem windowWriteThenRead : Obligations.WindowWriteThenRead := by
  intro s id a n v hp hb hfits halign hv
  have haddr : (BitVec.ofNat 32 (id.base + a)).toNat = id.base + a := by
    have hsize := MemId.size_le_window hp id
    have htop := id.base_add_window_le
    have hn := n.bytes_pos
    rw [BitVec.toNat_ofNat, Nat.mod_eq_of_lt (by omega)]
  have hroute : route s.cfg (BitVec.ofNat 32 (id.base + a)).toNat n.bytes = some (.window id a) := by
    rw [haddr, route_base_add hp n.bytes_pos hfits halign]
  refine ⟨_, memWrite_window_of_idle v hroute hb, fun k hk => ?_, fun j x hout => ?_, ?_, ?_⟩
  · rw [State.byte_store, if_pos ⟨rfl, by omega, by rw [leBytes_length]; omega⟩, Nat.add_sub_cancel_left, leBytes_getD_lane v hk]
  · rw [State.byte_store, if_neg (by rwa [leBytes_length])]
  · cases id <;> rfl
  · have hback := s.bytes_store_same id a (leBytes n.bytes v.toNat)
    rw [leBytes_length] at hback
    rw [memRead_window_of_idle (by rwa [State.store_cfg]) (by rwa [State.store_busy]), hback, fromLe_leBytes,
      Nat.mod_eq_of_lt (by rwa [← two_pow_lanes]), BitVec.ofNat_toNat, BitVec.setWidth_eq]

end Sys2Proof.Machine
end

section
/-! The command words (30_encoding.md R110 to R115): a word and its fields, the opcode map and the opcodes, what decodes
to a command and what does not, and the transition that completes a word when it is due. -/

namespace Sys2Proof.Machine

/-! ### A word and its fields, a word and its bytes -/

/-- RSV and OPC are all of a command word (R110). -/
theorem rsvField_append_opcField (w : Word) : rsvField w ++ opcField w = w :=
  (BitVec.extractLsb'_append_extractLsb'_eq_extractLsb' rfl).trans BitVec.extractLsb'_eq_self

/-- The bytes of a word, put together again in the order of R86 of 20_memory.md. -/
theorem wordBytes_append (w : Word) :
    w.extractLsb' 24 8 ++ w.extractLsb' 16 8 ++ w.extractLsb' 8 8 ++ w.extractLsb' 0 8 = w := by
  simp only [BitVec.extractLsb'_append_extractLsb'_eq_extractLsb']
  exact BitVec.extractLsb'_eq_self

@[simp] theorem decodeBytes_wordBytes (w : Word) : decodeBytes (wordBytes w) = decode w :=
  congrArg decode (wordBytes_append w)

@[simp] theorem rsvField_encode (i : Instr) : rsvField (encode i) = 0 := BitVec.extractLsb'_append_eq_left

@[simp] theorem opcField_encode (i : Instr) : opcField (encode i) = opcodeOf i := BitVec.extractLsb'_append_eq_right

/-- A word is the word of a command exactly when its fields are those of R110. -/
theorem eq_encode_iff {w : Word} {i : Instr} : w = encode i ↔ rsvField w = 0 ∧ opcField w = opcodeOf i := by
  constructor
  · rintro rfl
    exact ⟨rsvField_encode i, opcField_encode i⟩
  · rintro ⟨hrsv, hopc⟩
    rw [← rsvField_append_opcField w, hrsv, hopc, encode]

/-! ### The opcode map -/

/-- The map sends an opcode to the command whose opcode it is (R112). -/
theorem lookup_opcodeMap {b : Byte} {i : Instr} : opcodeMap.lookup b = some i ↔ b = opcodeOf i := by
  constructor
  · intro h
    obtain ⟨before, after, hmap, -⟩ := List.lookup_eq_some_iff.mp h
    have hrow : (b, i) ∈ opcodeMap := hmap ▸ List.mem_append_cons_self
    have hrows : ∀ row ∈ opcodeMap, row.1 = opcodeOf row.2 := by decide
    exact hrows _ hrow
  · rintro rfl
    cases i <;> rfl

/-! ### What decodes to a command -/

/-- The words that decode to a command are the words of that command (R115). -/
theorem decode_eq_ok_iff {w : Word} {i : Instr} : decode w = .ok i ↔ w = encode i := by
  rw [eq_encode_iff, ← lookup_opcodeMap, decode]
  by_cases hrsv : rsvField w = 0
  · rw [if_neg (not_not_intro hrsv)]
    cases opcodeMap.lookup (opcField w) <;> simp [hrsv]
  · rw [if_pos hrsv]
    exact iff_of_false nofun fun ⟨hzero, _⟩ => hrsv hzero

theorem decodeTableWord_eq_some {nbits w : Nat} {i : Instr} (h : decodeTableWord nbits w = some i) :
    decode (tableWord nbits w) = .ok i := by
  rw [decodeTableWord, decodeBytes_wordBytes] at h
  cases hd : decode (tableWord nbits w) with
  | error e => rw [hd] at h; cases h
  | ok j => rw [hd] at h; cases h; rfl

/-- Where the fifteen command words lie: the complement of the reserved words of R113 and R114. -/
theorem encode_toNat_ranges (i : Instr) :
    (encode i).toNat ≤ 0x07 ∨ (encode i).toNat = 0x10 ∨ (0x20 ≤ (encode i).toNat ∧ (encode i).toNat ≤ 0x21) ∨
    (0x30 ≤ (encode i).toNat ∧ (encode i).toNat ≤ 0x31) ∨ (0x40 ≤ (encode i).toNat ∧ (encode i).toNat ≤ 0x41) := by
  cases i <;> decide

/-! ### The completion of the due word -/

section
variable {s : State} (hbusy : s.busy = true) (hleft : s.left = 0)
include hbusy hleft

theorem step_of_decode_ok {i : Instr} (h : decode s.cmd = .ok i) : step s = exec i s := by
  simp only [step, fetch_eq_some.mpr ⟨hbusy, hleft, rfl⟩, h]

/-- A due word that is the word of no command completes with BAD_COMMAND (R113). -/
theorem step_of_ne_encode (h : ∀ i, s.cmd ≠ encode i) : step s = .next (s.finished 0x10) := by
  cases hd : decode s.cmd with
  | ok i => exact absurd (decode_eq_ok_iff.mp hd) (h i)
  | error e =>
    simp only [step, fetch_eq_some.mpr ⟨hbusy, hleft, rfl⟩, hd]
    rfl

end

/-! ### The statements -/

/-- Settles O2: what decodes to a command is characterised in both directions, and the bytes of a word are the word. -/
theorem decodeEncodeAgree : Obligations.DecodeEncodeAgree := by
  refine ⟨fun i _ => ?_, fun w i h => decode_eq_ok_iff.mp h, decodeBytes_wordBytes⟩
  have hword : decode (encode i) = .ok i := decode_eq_ok_iff.mpr rfl
  exact ⟨hword, (decodeBytes_wordBytes _).trans hword⟩

/-- Settles O3: no command word lies in a reserved range. -/
theorem illegalWordsCompleteWithBadCommand : Obligations.IllegalWordsCompleteWithBadCommand := by
  intro s hbusy hleft hreserved
  refine step_of_ne_encode hbusy hleft fun i hi => ?_
  have hranges := encode_toNat_ranges i
  rw [← hi] at hranges
  omega

/-- Settles O1: each of the fifteen numbers is the word of its command. -/
theorem tableWordsDecode : Obligations.TableWordsDecode := by
  unfold Obligations.TableWordsDecode
  simp only [decode_eq_ok_iff]
  decide

/-- Settles O4: the word that `withFetchWord` accepts is due at once. -/
theorem stepRunsTheDueCommand : Obligations.StepRunsTheDueCommand := by
  refine ⟨fun s i _ hbusy hleft hd => step_of_decode_ok hbusy hleft hd, fun s nbits w i h => ?_⟩
  exact step_of_decode_ok (s := s.withFetchWord nbits w) rfl rfl (decodeTableWord_eq_some h)

end Sys2Proof.Machine
end

section
/-! The command lifecycle (40_control.md): what a command leaves unchanged and what it completes with, that it reads no
live register, and what the host port does to a block with a command in progress and to an idle one. -/

namespace Sys2Proof.Machine

/-! ### What a command leaves unchanged -/

theorem storedSpan_ne_pw (r : Regs) (i : Instr) (a n : Nat) : storedSpan r i ≠ some (.pw, a, n) := by
  cases i <;> simp [storedSpan]

/-- KEYGEN alone stores to KS (42_keystream.md R191). -/
theorem storedSpan_ne_ks {i : Instr} (hi : i ≠ .keygen) (r : Regs) (a n : Nat) :
    storedSpan r i ≠ some (.ks, a, n) := by
  cases i <;> simp_all [storedSpan]

/-- `u` differs from `s` only where the command `i` may write (40_control.md R149). -/
structure CommandFrame (i : Instr) (s u : State) : Prop where
  untouched : untouchedByCommands s u
  prng : writesState i = false → u.prng = s.prng
  res : writesRes i = false → u.res = s.res
  outLen : writesOutLen i = false → u.outLen = s.outLen
  mem : ∀ id, (∀ a n, storedSpan s.op.regs i ≠ some (id, a, n)) → u.mem id = s.mem id
  byte : ∀ id x, ¬ inSpan (storedSpan s.op.regs i) id x → u.byte id x = s.byte id x

namespace CommandFrame

variable {i : Instr} {s u : State}

theorem refl (i : Instr) (s : State) : CommandFrame i s s where
  untouched := ⟨rfl, rfl, rfl, rfl, rfl, rfl, rfl, rfl, rfl, rfl⟩
  prng _ := rfl
  res _ := rfl
  outLen _ := rfl
  mem _ _ := rfl
  byte _ _ _ := rfl

theorem setPrng (hu : CommandFrame i s u) (hi : writesState i = true) (p : DWord) :
    CommandFrame i s { u with prng := p } :=
  { hu with prng := fun h => absurd (hi.symm.trans h) (by decide) }

theorem setRes (hu : CommandFrame i s u) (hi : writesRes i = true) (r : DWord) :
    CommandFrame i s { u with res := r } :=
  { hu with res := fun h => absurd (hi.symm.trans h) (by decide) }

theorem setOutLen (hu : CommandFrame i s u) (hi : writesOutLen i = true) (n : Word) :
    CommandFrame i s { u with outLen := n } :=
  { hu with outLen := fun h => absurd (hi.symm.trans h) (by decide) }

theorem complete (hu : CommandFrame i s u) (e : ErrCode) : CommandFrame i s (u.complete e) := { hu with }

theorem raiseFramed (hu : CommandFrame i s u) (hi : writesOutLen i = true) (e : ErrCode) :
    CommandFrame i s (u.raiseFramed e) := (hu.setOutLen hi 0).complete e

theorem drawResult (hu : CommandFrame i s u) (hprng : writesState i = true) (hres : writesRes i = true)
    (r p : DWord) : CommandFrame i s (u.drawResult r p) := ((hu.setPrng hprng p).setRes hres r).complete .ok

theorem store (hu : CommandFrame i s u) {id : MemId} {first count a : Nat} {bs : List Byte}
    (hspan : storedSpan s.op.regs i = some (id, first, count)) (hfirst : first ≤ a)
    (hcount : a + bs.length ≤ first + count) : CommandFrame i s (u.store id a bs) where
  untouched := by
    cases id with
    | buf => exact hu.untouched
    | ks => exact hu.untouched
    | pw => exact absurd hspan (storedSpan_ne_pw _ _ _ _)
  prng hi := by rw [State.store_prng, hu.prng hi]
  res hi := by rw [State.store_res, hu.res hi]
  outLen hi := by rw [State.store_outLen, hu.outLen hi]
  mem j hj := by
    have hne : j ≠ id := by
      rintro rfl
      exact hj _ _ hspan
    rw [State.store_mem, if_neg hne, hu.mem j hj]
  byte j x hout := by
    rw [State.byte_store, if_neg, hu.byte j x hout]
    rintro ⟨rfl, hlo, hhi⟩
    rw [hspan] at hout
    exact hout ⟨rfl, by omega, by omega⟩

theorem scramble (hu : CommandFrame i s u) {id : MemId} {first count a n : Nat}
    (hspan : storedSpan s.op.regs i = some (id, first, count)) (hfirst : first ≤ a) (hcount : a + n ≤ first + count) :
    CommandFrame i s (u.scramble id a n) :=
  { hu.store (bs := u.freeBytes n) hspan hfirst (by rwa [State.freeBytes_length]) with }

end CommandFrame

/-! ### The frame of each command -/

section
variable {i : Instr} {s : State}

theorem permuteRegion_frame {f : List Byte → DWord → Nat → List Byte}
    (hf : ∀ d seed n, (f d seed n).length = d.length)
    (hspan : storedSpan s.op.regs i = some (.buf, s.op.regs.addr.toNat, s.op.regs.len.toNat)) :
    CommandFrame i s (permuteRegion f s) := by
  obtain ⟨-, h⟩ | ⟨-, -, h⟩ | ⟨-, -, h⟩ := permuteRegion_cases f s <;> rw [h]
  · exact (CommandFrame.refl i s).complete _
  · exact (CommandFrame.refl i s).complete _
  · exact ((CommandFrame.refl i s).store hspan le_rfl (by rw [hf, State.region_length])).complete _

theorem mixRegion_frame {f : Nat → List Byte → List Byte → List Byte}
    (hf : ∀ {m : Nat} {b key : List Byte}, b.length % m = 0 → key.length = m → (f m b key).length = b.length)
    (hspan : storedSpan s.op.regs i = some (.buf, s.op.regs.addr.toNat, s.op.regs.len.toNat)) :
    CommandFrame i s (mixRegion f s) := by
  obtain ⟨-, h⟩ | ⟨-, -, h⟩ | ⟨-, hlen, h⟩ := mixRegion_cases f s <;> rw [h]
  · exact (CommandFrame.refl i s).complete _
  · exact (CommandFrame.refl i s).complete _
  · refine ((CommandFrame.refl i s).store hspan le_rfl ?_).complete _
    rw [hf (by rw [State.region_length, hlen]) s.mixKey_length, State.region_length]

theorem execPrngBytes_frame {t : State} (h : execPrngBytes s = .next t) : CommandFrame .prngBytes s t := by
  have hs := CommandFrame.refl .prngBytes s
  obtain ⟨-, hx⟩ | ⟨-, hx⟩ := execPrngBytes_cases s <;> rw [hx] at h <;> cases h
  · exact hs.complete _
  · exact ((hs.store rfl le_rfl (by rw [getRandomBytes_length])).setPrng rfl _).complete _

theorem execKeygen_frame {t : State} (h : execKeygen s = .next t) : CommandFrame .keygen s t := by
  have hs := CommandFrame.refl .keygen s
  obtain ⟨-, hx⟩ | ⟨-, hx⟩ := execKeygen_cases s <;> rw [hx] at h <;> cases h
  · exact hs.complete _
  · exact (hs.store rfl le_rfl (by rw [keystream_length, State.msize])).complete _

/-- Also for matrix size 0, which no register holds: there the token is its two last bytes. -/
theorem encryptToken_length_le (m : Nat) (payload pw : List Byte) (ts : DWord) :
    (encryptToken m payload pw ts).length ≤ tokenLen m payload.length := by
  obtain rfl | hm := Nat.eq_zero_or_pos m
  · simp only [encryptToken, scrambleFrame, mix, blocks, Nat.div_zero, List.range_zero, List.map_nil, mixBlocks,
      List.flatten_nil, List.nil_append, beBytes_length, tokenLen]
    omega
  · exact (encryptToken_length hm payload pw ts).le

theorem execEncrypt_frame {t : State} (h : execEncrypt s = .next t) : CommandFrame .encrypt s t := by
  have hs := CommandFrame.refl .encrypt s
  obtain ⟨-, hx⟩ | ⟨-, -, hx⟩ | ⟨-, -, hx⟩ := execEncrypt_cases s <;> rw [hx] at h <;> cases h
  · exact hs.raiseFramed rfl _
  · exact hs.raiseFramed rfl _
  · have hlen := encryptToken_length_le s.msize s.region s.password s.op.timeSeed
    rw [State.region_length] at hlen
    exact ((hs.store rfl le_rfl (Nat.add_le_add_left hlen _)).setOutLen rfl _).complete _

theorem execDecrypt_frame {t : State} (h : execDecrypt s = .next t) : CommandFrame .decrypt s t := by
  have hs := CommandFrame.refl .decrypt s
  obtain ⟨-, hx⟩ | ⟨-, ⟨-, hx⟩ | ⟨-, hx⟩ | ⟨p, hp, hx⟩⟩ := execDecrypt_cases s <;> rw [hx] at h <;> cases h
  · exact hs.raiseFramed rfl _
  · exact hs.raiseFramed rfl _
  · exact (hs.scramble rfl le_rfl le_rfl).raiseFramed rfl _
  · have hlen := decryptToken_payload_length hp
    rw [State.region_length] at hlen
    refine (((hs.store rfl le_rfl ?_).scramble rfl ?_ ?_).setOutLen rfl _).complete _ <;> omega

end

/-- The frame of every command, with the arms of the dispatch in the order of the table. -/
theorem exec_frame {i : Instr} {s t : State} (h : exec i s = .next t) : CommandFrame i s t := by
  have hs := CommandFrame.refl i s
  cases i with
  | nop => cases h; exact hs.complete _
  | prngSeed => cases h; exact (hs.setPrng rfl _).complete _
  | prngTseed => cases h; exact (hs.setPrng rfl _).complete _
  | prngU32 => cases h; exact hs.drawResult rfl rfl _ _
  | prngU64 => cases h; exact hs.drawResult rfl rfl _ _
  | prngF64 => cases h; exact hs.drawResult rfl rfl _ _
  | prngRange => cases h; exact hs.drawResult rfl rfl _ _
  | prngBytes => exact execPrngBytes_frame h
  | keygen => exact execKeygen_frame h
  | shuffle => cases h; exact permuteRegion_frame shuffle_length rfl
  | unshuffle => cases h; exact permuteRegion_frame unshuffle_length rfl
  | mix => cases h; exact mixRegion_frame mix_length rfl
  | unmix => cases h; exact mixRegion_frame unmix_length rfl
  | encrypt => exact execEncrypt_frame h
  | decrypt => exact execDecrypt_frame h

/-! ### Completion -/

/-- No arm of the dispatch faults or refuses (60_exceptions.md R280). -/
theorem exec_next (i : Instr) (s : State) : ∃ t, exec i s = .next t := by
  cases i <;> exact ⟨_, rfl⟩

theorem ErrCode.toByte_listed (e : ErrCode) :
    e.toByte = 0x00 ∨ e.toByte = 0x01 ∨ e.toByte = 0x02 ∨ e.toByte = 0x10 ∨ e.toByte = 0x11 ∨ e.toByte = 0x12 := by
  cases e <;> decide

/-! ### The live registers -/

/-- The state with other live operand registers and CTRL bits; the snapshot is as before. -/
def State.withLive (s : State) (r : Regs) (ie tsrc : Bool) : State := { s with regs := r, ie := ie, tsrc := tsrc }

section
variable (s : State) (r : Regs) (ie tsrc : Bool)

/-! In each of these the checks and the stored bytes are the same terms on both sides; only the branches have to be
taken inside `withLive`. -/

theorem permuteRegion_withLive (f : List Byte → DWord → Nat → List Byte) :
    permuteRegion f (s.withLive r ie tsrc) = (permuteRegion f s).withLive r ie tsrc := by
  simp only [permuteRegion, apply_ite (State.withLive · r ie tsrc)]
  rfl

theorem mixRegion_withLive (f : Nat → List Byte → List Byte → List Byte) :
    mixRegion f (s.withLive r ie tsrc) = (mixRegion f s).withLive r ie tsrc := by
  simp only [mixRegion, apply_ite (State.withLive · r ie tsrc)]
  rfl

variable {s} {t : State}

theorem execPrngBytes_withLive (h : execPrngBytes s = .next t) :
    execPrngBytes (s.withLive r ie tsrc) = .next (t.withLive r ie tsrc) := by
  cases h
  simp only [execPrngBytes, apply_ite (State.withLive · r ie tsrc)]
  rfl

theorem execKeygen_withLive (h : execKeygen s = .next t) :
    execKeygen (s.withLive r ie tsrc) = .next (t.withLive r ie tsrc) := by
  cases h
  simp only [execKeygen, apply_ite (State.withLive · r ie tsrc)]
  rfl

theorem execEncrypt_withLive (h : execEncrypt s = .next t) :
    execEncrypt (s.withLive r ie tsrc) = .next (t.withLive r ie tsrc) := by
  cases h
  simp only [execEncrypt, apply_ite (State.withLive · r ie tsrc)]
  rfl

theorem execDecrypt_withLive (h : execDecrypt s = .next t) :
    execDecrypt (s.withLive r ie tsrc) = .next (t.withLive r ie tsrc) := by
  cases h
  have hsame : decryptToken (s.withLive r ie tsrc).msize (s.withLive r ie tsrc).region (s.withLive r ie tsrc).password =
      decryptToken s.msize s.region s.password := rfl
  simp only [execDecrypt, apply_ite (State.withLive · r ie tsrc), hsame]
  cases decryptToken s.msize s.region s.password <;> rfl

/-- No command reads a live operand register or CTRL: its checks and the bytes it computes are functions of the
snapshot, the parameters, STATE and the memories. -/
theorem exec_withLive {i : Instr} (h : exec i s = .next t) :
    exec i (s.withLive r ie tsrc) = .next (t.withLive r ie tsrc) := by
  cases i with
  | nop | prngSeed | prngTseed | prngU32 | prngU64 | prngF64 | prngRange => cases h; rfl
  | prngBytes => exact execPrngBytes_withLive r ie tsrc h
  | keygen => exact execKeygen_withLive r ie tsrc h
  | shuffle => cases h; exact congrArg _ (permuteRegion_withLive s r ie tsrc shuffle)
  | unshuffle => cases h; exact congrArg _ (permuteRegion_withLive s r ie tsrc unshuffle)
  | mix => cases h; exact congrArg _ (mixRegion_withLive s r ie tsrc mix)
  | unmix => cases h; exact congrArg _ (mixRegion_withLive s r ie tsrc unmix)
  | encrypt => exact execEncrypt_withLive r ie tsrc h
  | decrypt => exact execDecrypt_withLive r ie tsrc h

end

/-! ### The host port while a command is in progress -/

theorem fetch_of_idle {s : State} (hb : s.busy = false) : fetch s = none := by simp [fetch, hb]

theorem fetch_of_left_ne_zero {s : State} (hleft : s.left ≠ 0) : fetch s = none := by simp [fetch, hleft]

theorem step_of_fetch_none {s : State} (h : fetch s = none) : step s = .next (hostTurn s) := by
  simp only [step, h]

/-- An access that reaches a register is made at that register's address. -/
theorem addr_of_route_register {p : Params} {addr a : Word} {n : Nat} {r : Reg}
    (hroute : route p addr.toNat n = some (.register r)) (ha : regAt a.toNat = some r) : addr = a :=
  BitVec.eq_of_toNat_eq (regAt_inj (route_eq_register hroute).2 ha)

/-- A legal write while busy, but to CTRL or STATUS, is ignored (40_control.md R146). -/
theorem memWrite_of_busy {s : State} {addr : Word} {n : AccessSize} (v : Word) {g : Target} (hb : s.busy = true)
    (hroute : route s.cfg addr.toNat n.bytes = some g) (hctrl : addr ≠ 0x020) (hstatus : addr ≠ 0x024) :
    memWrite s addr n v = .next s.setWign := by
  obtain ⟨hnone, -⟩ | ⟨_, -, -, -, -, hx⟩ | ⟨r, hreg, hidle | rfl | rfl, -⟩ | ⟨-, hidle, -⟩ | ⟨_, _, -, hidle, -⟩ :=
    memWrite_cases s addr n v
  · rw [hroute] at hnone; cases hnone
  · exact hx
  · rw [hb] at hidle; cases hidle
  · exact absurd (addr_of_route_register hreg rfl) hctrl
  · exact absurd (addr_of_route_register hreg rfl) hstatus
  · rw [hb] at hidle; cases hidle
  · rw [hb] at hidle; cases hidle

/-- `t` differs from `s` only in CTRL, the sticky flags, the bus response and the count of free values. -/
def sameButFlags (s t : State) : Prop :=
  t = { s with ie := t.ie, tsrc := t.tsrc, done := t.done, wign := t.wign, bus := t.bus, draws := t.draws }

theorem memWrite_sameButFlags_of_busy {s t : State} {addr : Word} {n : AccessSize} {v : Word} (hb : s.busy = true)
    (he : isResetEvent (.write addr n v) = false) (ht : memWrite s addr n v = .next t) : sameButFlags s t := by
  obtain ⟨-, hx⟩ | ⟨_, -, -, -, -, hx⟩ | ⟨r, hroute, hidle | rfl | rfl, hx⟩ | ⟨-, hidle, -⟩ | ⟨_, _, -, hidle, -⟩ :=
    memWrite_cases s addr n v
  · rw [hx] at ht; cases ht
  · rw [hx] at ht; cases ht; rfl
  · rw [hb] at hidle; cases hidle
  · have hwrite : s.writeReg .ctrl v = { s with ie := v.getLsbD 0, tsrc := v.getLsbD 1 } :=
      writeCtrl_of_no_srst s v (srst_clear_of_route hroute he)
    rw [hx, hwrite] at ht; cases ht; rfl
  · rw [hx] at ht; cases ht; rfl
  · rw [hb] at hidle; cases hidle
  · rw [hb] at hidle; cases hidle

/-- While busy a host event that is no reset touches flags only (40_control.md R146, R147). -/
theorem hostEvent_sameButFlags_of_busy {s : State} {e : HostEvent} (hb : s.busy = true) (he : isResetEvent e = false) :
    sameButFlags s (s.hostEvent e) := by
  cases e with
  | read addr n =>
    obtain ⟨r, d, h⟩ := hostEvent_read_frame s addr n
    rw [h]
    rfl
  | write addr n v =>
    obtain ⟨-, hx⟩ | ⟨t, ht, hx⟩ := hostEvent_write_cases s addr n v <;> rw [hx]
    · rfl
    · have hsame := memWrite_sameButFlags_of_busy hb he ht
      rw [sameButFlags, hsame]
      rfl
  | powerOn => cases he

/-- The turn of the host port that such an event takes, or that no event takes. -/
theorem hostTurn_sameButFlags_of_busy {s : State} (hb : s.busy = true)
    (he : ∀ e ∈ s.inbox.take 1, isResetEvent e = false) : ∃ rest, sameButFlags (s.tick rest) (hostTurn s) := by
  unfold hostTurn
  split
  case h_1 => exact ⟨[], rfl⟩
  case h_2 e rest hinbox => exact ⟨rest, hostEvent_sameButFlags_of_busy (s := s.tick rest) hb (he e (by simp [hinbox]))⟩

/-! ### Acceptance -/

theorem samplesTime_of_usesTimeSeed {w : Word} {i : Instr} {tsrc : Bool} (hd : decode w = .ok i)
    (hi : usesTimeSeed i = true) (htsrc : tsrc = false) : samplesTime w tsrc = true := by
  simp [samplesTime, hd, hi, htsrc]

/-- A CMD write to an idle block, as a transition. -/
theorem step_of_cmd_write {s : State} {w : Word} {rest : List HostEvent} (hb : s.busy = false)
    (hinbox : s.inbox = .write 0x028 .word w :: rest) :
    step s = .next (((s.tick rest).accept w (Config.latency s.draws)).respond .done) := by
  have hwrite := memWrite_register (s.tick rest) (addr := 0x028) w (r := .cmd) rfl (.inl hb)
  rw [step_of_event (fetch_of_idle hb) hinbox, hostEvent_write hwrite]
  rfl

/-! ### The statements -/

/-- Settles O6: every arm answers next, a completion sets the flags, and the frame keeps CMD and CTRL. -/
theorem everyCommandCompletes : Obligations.EveryCommandCompletes := by
  intro i s
  obtain ⟨t, ht⟩ := exec_next i s
  obtain ⟨-, hie, -, -, hcmd, -⟩ := (exec_frame ht).untouched
  obtain ⟨u, e, -, rfl⟩ := exec_completes ht
  refine ⟨_, ht, rfl, rfl, e.toByte_listed, hcmd, rfl, rfl, ?_⟩
  rw [State.irq, hie, State.complete_done, Bool.and_true]

/-- Settles O9: the frame of the commands; a memory outside the span's is whole. -/
theorem commandsKeepTheRest : Obligations.CommandsKeepTheRest := by
  intro i s t h
  have hframe := exec_frame h
  refine ⟨hframe.untouched, hframe.prng, hframe.res, hframe.outLen, fun hi => ?_, fun hnone => ?_⟩
  · exact hframe.mem .ks (storedSpan_ne_ks hi _)
  · exact hframe.mem .buf fun a n => by rw [hnone]; nofun

/-- Settles O10: the frame of the commands, byte by byte. -/
theorem commandsKeepOtherBytes : Obligations.CommandsKeepOtherBytes := fun _ _ _ h => (exec_frame h).byte

/-- Settles O11: a command commutes with replacing the live registers. -/
theorem operandsComeFromTheSnapshot : Obligations.OperandsComeFromTheSnapshot :=
  fun _ _ _ r ie tsrc h => exec_withLive r ie tsrc h

/-- Settles O12: no command is due, so the transition is a turn of the host port, which touches flags only. -/
theorem busyFreezesOperandsAndMemories : Obligations.BusyFreezesOperandsAndMemories := by
  intro s t hb hleft he hstep
  rw [step_of_fetch_none (fetch_of_left_ne_zero hleft)] at hstep
  cases hstep
  obtain ⟨rest, hsame⟩ := hostTurn_sameButFlags_of_busy hb he
  rw [hsame]
  exact ⟨rfl, rfl, rfl, rfl, rfl, rfl, rfl, rfl, rfl, rfl, rfl, hb, rfl⟩

/-- Settles O52: the write is the transition, and a busy block ignores it. -/
theorem writesWhileBusyAreDropped : Obligations.WritesWhileBusyAreDropped := by
  intro s addr n v rest hp hb hleft hinbox hlegal hctrl hstatus
  obtain ⟨g, hroute⟩ := route_of_legal hp hlegal
  have hwrite := memWrite_of_busy (s := s.tick rest) v hb hroute hctrl hstatus
  rw [step_of_event (fetch_of_left_ne_zero hleft) hinbox, hostEvent_write hwrite]
  rfl

/-- Settles O5: the transition is the acceptance of the word, which samples the time for the two commands that use it. -/
theorem idleCmdWriteIsAccepted : Obligations.IdleCmdWriteIsAccepted := by
  intro s w rest hb hinbox
  refine ⟨_, (s.sampleOperands w).time, step_of_cmd_write hb hinbox, rfl, fun i hd hi htsrc => ?_, rfl, ?_⟩
  · have huses : usesTimeSeed i = true := by obtain rfl | rfl := hi <;> rfl
    rw [State.sampleOperands, samplesTime_of_usesTimeSeed hd huses htsrc, if_pos rfl]
  · exact Bool.and_false s.ie

/-- Settles O14: completion with OK is all that NOP is. -/
theorem nopResult : Obligations.NopResult := fun _ => rfl

end Sys2Proof.Machine
end

section
/-! The commands on the architectural PRNG (41_prng.md R160 to R174): the LCG in exact integers, the byte stream of its
draws, the binary64 draw, and the seven commands. -/

namespace Sys2Proof.Machine

/-! ### The LCG and its draws -/

/-- The LCG step in exact integers (41_prng.md R160). -/
theorem lcg_toNat (s : DWord) :
    (lcg s).toNat = (s.toNat * 6364136223846793005 + 1442695040888963407) % 2 ^ 64 := by
  have hmul : lcgMultiplier.toNat = 6364136223846793005 := rfl
  have hinc : lcgIncrement.toNat = 1442695040888963407 := rfl
  rw [lcg, BitVec.toNat_add, BitVec.toNat_mul, hmul, hinc, Nat.mod_add_mod]

/-- A draw is the high half of the new state (41_prng.md R161). -/
theorem highHalf_toNat (x : DWord) : (x.extractLsb' 32 32).toNat = x.toNat / 2 ^ 32 := by
  have := x.isLt
  rw [BitVec.extractLsb'_toNat, Nat.shiftRight_eq_div_pow, Nat.mod_eq_of_lt (by omega)]

theorem draw_le (x : DWord) : x.toNat / 2 ^ 32 ≤ 4294967295 := by
  have := x.isLt
  omega

/-- A 64-bit register from its high and low halves. -/
theorem halves_toNat (hi lo : Word) : (hi ++ lo : DWord).toNat = hi.toNat * 2 ^ 32 + lo.toNat := by
  rw [BitVec.toNat_append, ← Nat.shiftLeft_add_eq_or_of_lt lo.isLt, Nat.shiftLeft_eq]

/-! ### The byte stream of the draws -/

/-- A byte of the high half. -/
theorem highHalf_byte (x : DWord) {k : Nat} (hk : k < 4) :
    (x.extractLsb' 32 32).extractLsb' (8 * k) 8 = x.extractLsb' (32 + 8 * k) 8 := by
  ext i hi
  have hlow : 8 * k + i < 32 := by omega
  simp [BitVec.getElem_extractLsb', hlow, add_assoc]

theorem drawBytes_snd (d : Nat) (s : DWord) : (drawBytes d s).2 = lcg^[d] s := by
  induction d generalizing s with
  | zero => rfl
  | succ d ih => rw [drawBytes_succ_snd, ih, Function.iterate_succ_apply]

/-- Byte `k` of the stream is byte `k mod 4`, least significant first, of draw `k div 4`. -/
theorem drawBytes_getD {d k : Nat} (s : DWord) (hk : k < 4 * d) :
    (drawBytes d s).1.getD k 0 = (lcg^[k / 4 + 1] s).extractLsb' (32 + 8 * (k % 4)) 8 := by
  induction d generalizing s k with
  | zero => omega
  | succ d ih =>
    rw [drawBytes_succ_fst]
    by_cases hfirst : k < 4
    · rw [List.getD_append _ _ _ _ (by rwa [leBytes_length]), leBytes_getD_lane _ hfirst,
        Nat.div_eq_of_lt hfirst, Nat.mod_eq_of_lt hfirst, Function.iterate_one, highHalf_byte _ hfirst]
    · obtain ⟨j, rfl⟩ : ∃ j, k = j + 4 := ⟨k - 4, by omega⟩
      rw [List.getD_append_right _ _ _ _ (by rw [leBytes_length]; omega), leBytes_length, Nat.add_sub_cancel,
        ih _ (by omega), Nat.add_div_right _ (by decide), Nat.add_mod_right, ← Function.iterate_succ_apply]

theorem getRandomBytes_state (s : DWord) (n : Nat) : (getRandomBytes s n).2 = lcg^[(n + 3) / 4] s := by
  rw [getRandomBytes_snd, drawBytes_snd]

theorem getRandomBytes_getD {n k : Nat} (s : DWord) (hk : k < n) :
    (getRandomBytes s n).1.getD k 0 = (lcg^[k / 4 + 1] s).extractLsb' (32 + 8 * (k % 4)) 8 := by
  rw [getRandomBytes_fst, List.getD_eq_getElem?_getD, List.getElem?_take_of_lt hk, ← List.getD_eq_getElem?_getD,
    drawBytes_getD s (by omega)]

/-! ### Patterns from their views -/

theorem eq_f64Inf_of_f64View {x : DWord} {neg : Bool} (h : f64View x = .inf neg) : x = f64Inf neg := by
  have hlt := x.isLt
  apply BitVec.eq_of_toNat_eq
  rw [f64Inf, f64Pack_toNat (by decide)]
  rw [f64View_eq] at h
  split at h
  · split at h
    · cases h
      simp only [decide_eq_true_eq]
      split <;> omega
    · cases h
  · split at h <;> cases h

/-- The significand and the last place of a finite pattern, put back in their fields. -/
theorem toNat_of_f64View_fin {x : DWord} {neg : Bool} {m k : Nat} (h : f64View x = .fin neg m k) :
    x.toNat = (k * 2 ^ 52 + m) + (if neg then 2 ^ 63 else 0) ∧ (k = 0 ∨ 2 ^ 52 ≤ m) := by
  have hlt := x.isLt
  rw [f64View_eq] at h
  split at h
  · split at h <;> cases h
  · split at h <;> cases h
    · refine ⟨?_, .inl rfl⟩
      simp only [decide_eq_true_eq]
      split <;> omega
    · refine ⟨?_, .inr (Nat.le_add_right _ _)⟩
      simp only [decide_eq_true_eq]
      split <;> omega

/-- A larger last place means a larger value. -/
theorem lt_of_lastPlace_lt {m n k l : Nat} (hm : m < 2 ^ 53) (hn : l = 0 ∨ 2 ^ 52 ≤ n) (hkl : k < l) :
    m * 2 ^ k < n * 2 ^ l := by
  have hpow : 2 ^ (k + 1) ≤ 2 ^ l := Nat.pow_le_pow_right two_pos hkl
  calc m * 2 ^ k < 2 ^ 53 * 2 ^ k := Nat.mul_lt_mul_of_pos_right hm (Nat.two_pow_pos k)
    _ = 2 ^ 52 * 2 ^ (k + 1) := by ring
    _ ≤ n * 2 ^ l := Nat.mul_le_mul (hn.resolve_left (by omega)) hpow

/-- A finite value has one pattern of each sign. -/
theorem eq_of_units_eq {x y : DWord} {neg : Bool} {m n k l : Nat} (hx : f64View x = .fin neg m k)
    (hy : f64View y = .fin neg n l) (h : m * 2 ^ k = n * 2 ^ l) : x = y := by
  obtain ⟨hbits, hnormal⟩ := toNat_of_f64View_fin hx
  obtain ⟨hbits', hnormal'⟩ := toNat_of_f64View_fin hy
  obtain hkl | rfl | hkl := Nat.lt_trichotomy k l
  · exact absurd h (lt_of_lastPlace_lt (f64View_significand_lt hx) hnormal' hkl).ne
  · obtain rfl := Nat.mul_right_cancel (Nat.two_pow_pos k) h
    exact BitVec.eq_of_toNat_eq (hbits.trans hbits'.symm)
  · exact absurd h.symm (lt_of_lastPlace_lt (f64View_significand_lt hy) hnormal hkl).ne

/-! ### Exact integers in binary64 -/

/-- The value a finite rounding comes to, in units. -/
theorem f64View_f64Round_finite (neg : Bool) {num den : Nat} (hden : 0 < den)
    (h : num < (2 ^ 54 - 1) * 2 ^ 2044 * den) :
    ∃ m k, f64View (f64Round neg num den) = .fin neg m k ∧
      m * 2 ^ k = significand num den * 2 ^ lastPlace num den := by
  have hmag := Nat.lt_of_not_le (mt (magnitude_overflow_iff num hden).mp h.not_ge)
  rw [f64Round, f64Magnitude_eq, min_eq_left hmag.le]
  exact f64View_f64Pack_units hmag (significand_le num hden) (or_iff_not_imp_left.mpr (le_significand num hden))

/-- Powers of two by their exponents, which `rw` and `omega` would evaluate. -/
theorem two_pow_mul {a b c : Nat} (h : a + b = c) : 2 ^ a * 2 ^ b = 2 ^ c := by rw [← h, pow_add]

/-- An integer of at most 53 bits is far below the largest finite value. -/
theorem units_lt_overflow {n : Nat} (hn : n < 2 ^ 53) : n * 2 ^ 1074 < (2 ^ 54 - 1) * 2 ^ 2044 := by
  calc n * 2 ^ 1074 ≤ 2 ^ 53 * 2 ^ 1074 := by gcongr
    _ < (2 ^ 54 - 1) * 2 ^ 2044 := by gcongr <;> decide

/-- An integer of at most 53 bits is a binary64 value. -/
theorem f64View_f64OfNat {n : Nat} (hn : n < 2 ^ 53) :
    ∃ m k, f64View (f64OfNat n) = .fin false m k ∧ m * 2 ^ k = n * 2 ^ 1074 := by
  have hfinite : n * 2 ^ 1074 < (2 ^ 54 - 1) * 2 ^ 2044 * 1 := by rw [mul_one]; exact units_lt_overflow hn
  obtain ⟨m, k, hview, hunits⟩ := f64View_f64Round_finite false Nat.one_pos hfinite
  refine ⟨m, k, hview, hunits.trans ?_⟩
  obtain ⟨hnear, -⟩ := significand_nearest (n * 2 ^ 1074) Nat.one_pos hn 1074
  rw [mul_one, mul_one, sub_self, abs_zero] at hnear
  exact Int.natCast_inj.mp (sub_eq_zero.mp (abs_nonpos_iff.mp hnear))

/-! ### The binary64 draw -/

/-- next_f64 of a draw `u`: the draw divided by u32::MAX (41_prng.md R163). -/
def drawF64 (u : Nat) : DWord := fdiv (f64OfNat u) (f64OfNat u32Max)

theorem nextF64_fst (s : DWord) : (nextF64 s).1 = drawF64 ((lcg s).toNat / 2 ^ 32) := by
  rw [← highHalf_toNat]
  rfl

/-- Among the non-negative finite values, none is nearer to `u / u32::MAX` than `v` units. -/
def NearestToDraw (u v : Nat) : Prop :=
  ∀ (y : DWord) (n l : Nat), f64View y = .fin false n l →
    |((v * 4294967295 : Nat) : Int) - ((u * 2 ^ 1074 : Nat) : Int)| ≤
      |((n * 2 ^ l * 4294967295 : Nat) : Int) - ((u * 2 ^ 1074 : Nat) : Int)|

/-- A common factor of the dividend and of the divisor scales every distance. -/
theorem distance_scaled (a b u c : Nat) :
    |((a * (b * c) : Nat) : Int) - ((u * c : Nat) : Int)| = |((a * b : Nat) : Int) - (u : Int)| * (c : Int) := by
  rw [← mul_assoc, Nat.cast_mul, Nat.cast_mul u, ← sub_mul, abs_mul, Nat.abs_cast]

/-- Both operands of the division are exact, so its one rounding is to the value nearest to the draw. -/
theorem drawF64_nearest {u : Nat} (hu : u ≤ 4294967295) :
    ∃ m k, f64View (drawF64 u) = .fin false m k ∧ NearestToDraw u (m * 2 ^ k) := by
  obtain ⟨ma, ka, ha, hua⟩ := f64View_f64OfNat (n := u) (by omega)
  obtain ⟨mb, kb, hb, hub⟩ := f64View_f64OfNat (n := u32Max) (by decide)
  rw [u32Max] at hub
  have hub_pos : 0 < 4294967295 * 2 ^ 1074 := Nat.mul_pos (by decide) (pow_pos two_pos 1074)
  have hmb : mb ≠ 0 := by
    rintro rfl
    rw [zero_mul] at hub
    exact hub_pos.ne hub
  obtain ⟨-, hround⟩ := fdiv_correctlyRounded ha hb hmb
  rw [hua, hub] at hround
  have hfinite : u * 2 ^ 1074 * 2 ^ 1074 < (2 ^ 54 - 1) * 2 ^ 2044 * (4294967295 * 2 ^ 1074) :=
    Nat.mul_lt_mul_of_lt_of_le (units_lt_overflow (by omega)) (Nat.le_mul_of_pos_left _ (by decide)) hub_pos
  obtain ⟨m, k, hview, hnear⟩ := hround hfinite.not_ge
  refine ⟨m, k, hview, fun y n l hy => ?_⟩
  obtain ⟨hle, -⟩ := hnear y n l hy
  rw [distance_scaled, distance_scaled] at hle
  exact le_of_mul_le_mul_right hle (Nat.cast_pos.mpr (pow_pos two_pos 1074))

section
variable {u v : Nat} (h : NearestToDraw u v)
include h

/-- Only the draw 0 is nearest to 0. -/
theorem NearestToDraw.units_eq_zero (hu : u = 0) : v = 0 := by
  have hzero := h 0 0 0 (by decide)
  subst hu
  simp only [Nat.zero_mul, sub_self, abs_zero, Nat.cast_zero, sub_zero, Int.abs_eq_natAbs] at hzero
  omega

/-- A draw that is not 0 is nearer to 2^-32 than to anything below it. -/
theorem NearestToDraw.two_pow_le_units (hu : u ≠ 0) : 2 ^ 1042 ≤ v := by
  have hnear := h 0x3DF0000000000000 (2 ^ 52) 990 (by decide)
  have hone : 2 ^ 1074 ≤ u * 2 ^ 1074 := Nat.le_mul_of_pos_left _ (Nat.pos_of_ne_zero hu)
  have hscale : 2 ^ 32 * 2 ^ 1042 = 2 ^ 1074 := two_pow_mul rfl
  rw [two_pow_mul (c := 1042) rfl, Int.abs_eq_natAbs, Int.abs_eq_natAbs] at hnear
  generalize u * 2 ^ 1074 = w at *
  rw [← hscale] at hone
  generalize 2 ^ 1042 = p at *
  omega

/-- A draw below u32::MAX is nearer to the value before 1.0 than to 1.0. -/
theorem NearestToDraw.units_lt_one (hu : u < 4294967295) : v < 2 ^ 1074 := by
  have hnear := h 0x3FEFFFFFFFFFFFFF (2 ^ 53 - 1) 1021 (by decide)
  have hle : u * 2 ^ 1074 ≤ 4294967294 * 2 ^ 1074 := Nat.mul_le_mul_right _ (by omega)
  have hscale : 2 ^ 53 * 2 ^ 1021 = 2 ^ 1074 := two_pow_mul rfl
  rw [Int.abs_eq_natAbs, Int.abs_eq_natAbs] at hnear
  generalize u * 2 ^ 1074 = w at *
  rw [← hscale] at hle ⊢
  have hpos : 0 < 2 ^ 1021 := pow_pos two_pos 1021
  generalize 2 ^ 1021 = p at *
  omega

/-- The draw u32::MAX is 1.0 exactly. -/
theorem NearestToDraw.units_eq_one (hu : u = 4294967295) : v = 2 ^ 1074 := by
  have hone := h 0x3FF0000000000000 (2 ^ 52) 1022 (by decide)
  subst hu
  rw [two_pow_mul (c := 1074) rfl, mul_comm 4294967295, sub_self, abs_zero, Int.abs_eq_natAbs] at hone
  generalize 2 ^ 1074 = q at *
  omega

end

section
variable {u m k : Nat}

theorem NearestToDraw.le_one (hnear : NearestToDraw u (m * 2 ^ k)) (hu : u ≤ 4294967295) : m * 2 ^ k ≤ 2 ^ 1074 := by
  obtain hlt | heq := hu.lt_or_eq
  · exact (hnear.units_lt_one hlt).le
  · exact (hnear.units_eq_one heq).le

theorem NearestToDraw.significand_eq_zero_iff (hnear : NearestToDraw u (m * 2 ^ k)) : m = 0 ↔ u = 0 := by
  constructor
  · rintro rfl
    by_contra hpos
    have hlarge := hnear.two_pow_le_units hpos
    rw [zero_mul] at hlarge
    exact hlarge.not_gt (pow_pos two_pos 1042)
  · intro hzero
    exact (Nat.mul_eq_zero.mp (hnear.units_eq_zero hzero)).resolve_right (Nat.two_pow_pos k).ne'

/-- A subnormal would be below 2^-32, and so nearest to no draw but 0. -/
theorem NearestToDraw.zero_or_normal (hnear : NearestToDraw u (m * 2 ^ k)) (hk : k = 0 ∨ 2 ^ 52 ≤ m) :
    m = 0 ∨ 2 ^ 52 ≤ m := by
  obtain rfl | hnormal := hk
  · obtain hzero | hpos := eq_or_ne u 0
    · exact .inl (hnear.significand_eq_zero_iff.mpr hzero)
    · have hlarge := hnear.two_pow_le_units hpos
      rw [pow_zero, mul_one] at hlarge
      exact .inr ((pow_le_pow_right₀ one_le_two (by decide)).trans hlarge)
  · exact .inr hnormal

end

theorem drawF64_eq_zero_iff {u : Nat} (hu : u ≤ 4294967295) : drawF64 u = 0 ↔ u = 0 := by
  obtain ⟨m, k, hview, hnear⟩ := drawF64_nearest hu
  have hzero : f64View 0 = .fin false 0 0 := by decide
  constructor
  · intro h
    rw [h, hzero] at hview
    cases hview
    exact hnear.significand_eq_zero_iff.mp rfl
  · intro h
    exact eq_of_units_eq hview hzero (by rw [hnear.units_eq_zero h, zero_mul])

theorem drawF64_eq_one_iff {u : Nat} (hu : u ≤ 4294967295) :
    drawF64 u = 0x3FF0000000000000 ↔ u = 4294967295 := by
  obtain ⟨m, k, hview, hnear⟩ := drawF64_nearest hu
  have hone : f64View 0x3FF0000000000000 = .fin false (2 ^ 52) 1022 := by decide
  have hunits : 2 ^ 52 * 2 ^ 1022 = 2 ^ 1074 := two_pow_mul rfl
  constructor
  · intro h
    rw [h, hone] at hview
    cases hview
    by_contra hne
    exact (hnear.units_lt_one (by omega)).ne hunits
  · intro h
    exact eq_of_units_eq hview hone ((hnear.units_eq_one h).trans hunits.symm)

/-! ### The special values of gen_range -/

section
variable {low high f : DWord} {g h : Bool} {m k n l : Nat}

/-- The value of gen_range before a NaN is made canonical (41_prng.md R164). -/
def rangeValue (low high f : DWord) : DWord := fadd low (fmul (fsub high low) f)

theorem rangeValue_nan (hnan : f64View low = .nan ∨ f64View high = .nan) :
    f64View (rangeValue low high f) = .nan :=
  f64View_fadd_nan (.inr (f64View_fmul_nan (.inl (f64View_fsub_nan hnan.symm))))

/-- An infinity times a draw: NaN at the draw 0. -/
theorem f64View_fmul_inf_draw {x : DWord} (hx : f64View x = .inf g) (hf : f64View f = .fin false n l) :
    f64View (fmul x f) = if n = 0 then .nan else .inf g := by
  obtain ⟨hmul, -⟩ := f64View_inf_fin hx hf
  rwa [Bool.xor_false] at hmul

/-- The difference from an infinite LOW is NaN or the opposite infinity. -/
theorem f64View_fsub_inf_low (hlow : f64View low = .inf g) :
    f64View (fsub high low) = .nan ∨ f64View (fsub high low) = .inf (!g) := by
  cases hhigh : f64View high with
  | nan => exact .inl (f64View_fsub_nan (.inl hhigh))
  | inf h =>
    obtain ⟨-, -, -, hsub⟩ := f64View_inf_inf hhigh hlow
    rw [hsub]
    cases g <;> cases h <;> decide
  | fin h m k =>
    obtain ⟨-, -, -, -, -, -, -, hsub⟩ := f64View_inf_fin hlow hhigh
    exact .inr hsub

/-- An infinite LOW plus a NaN or the opposite infinity. -/
theorem rangeValue_inf_low (hlow : f64View low = .inf g) (hf : f64View f = .fin false n l) :
    f64View (rangeValue low high f) = .nan := by
  obtain hsub | hsub := f64View_fsub_inf_low (high := high) hlow
  · exact f64View_fadd_nan (.inr (f64View_fmul_nan (.inl hsub)))
  · have hmul := f64View_fmul_inf_draw hsub hf
    split at hmul
    · exact f64View_fadd_nan (.inr hmul)
    · obtain ⟨-, -, hadd, -⟩ := f64View_inf_inf hlow hmul
      rwa [if_neg (by cases g <;> decide)] at hadd

/-- An infinite difference carries through, except at the draw 0. -/
theorem rangeValue_inf_difference (hlow : f64View low = .fin h m k) (hsub : f64View (fsub high low) = .inf g)
    (hf : f64View f = .fin false n l) :
    f64View (rangeValue low high f) = if n = 0 then .nan else .inf g := by
  have hmul := f64View_fmul_inf_draw hsub hf
  split at hmul <;> rename_i hn
  · rw [if_pos hn]
    exact f64View_fadd_nan (.inr hmul)
  · rw [if_neg hn]
    obtain ⟨-, -, -, -, -, hadd, -⟩ := f64View_inf_fin hmul hlow
    exact hadd

/-- What PRNG_RANGE puts into RES (41_prng.md R173). -/
def canonicalize (v : DWord) : DWord := if f64IsNaN v then canonicalNaN else v

theorem canonicalize_of_nan {v : DWord} (hv : f64View v = .nan) : canonicalize v = canonicalNaN := by
  simp [canonicalize, f64IsNaN, hv]

theorem canonicalize_of_ne_nan {v : DWord} (hv : f64View v ≠ .nan) : canonicalize v = v := by
  simp [canonicalize, f64IsNaN, hv]

theorem canonicalize_rangeValue_inf_difference (hlow : f64View low = .fin h m k)
    (hsub : f64View (fsub high low) = .inf g) (hf : f64View f = .fin false n l) :
    canonicalize (rangeValue low high f) = if n = 0 then canonicalNaN else f64Inf g := by
  have hv := rangeValue_inf_difference hlow hsub hf
  split at hv <;> rename_i hn
  · rw [if_pos hn, canonicalize_of_nan hv]
  · rw [if_neg hn, canonicalize_of_ne_nan (by rw [hv]; nofun), eq_f64Inf_of_f64View hv]

end

/-! ### The statements -/

/-- Settles O15: the seed is the pair of its registers. -/
theorem prngSeedResult : Obligations.PrngSeedResult := fun s =>
  ⟨s.op.regs.seed, halves_toNat s.op.regs.seedHi s.op.regs.seedLo, rfl⟩

/-- Settles O16: the time seed by the sampled TSRC. -/
theorem prngTseedResult : Obligations.PrngTseedResult := by
  intro s
  refine ⟨s.op.timeSeed, ?_, rfl⟩
  unfold Operands.timeSeed
  split
  · exact halves_toNat s.op.regs.tseedHi s.op.regs.tseedLo
  · rfl

/-- Settles O17: one step of the LCG, and the high half of the new state, zero-extended. -/
theorem prngU32Result : Obligations.PrngU32Result := fun s =>
  ⟨lcg s.prng, ((lcg s.prng).extractLsb' 32 32).setWidth 64, lcg_toNat s.prng,
    (BitVec.toNat_setWidth_of_le (by decide)).trans (highHalf_toNat _), rfl⟩

/-- Settles O18: two steps, and the two high halves side by side. -/
theorem prngU64Result : Obligations.PrngU64Result := by
  intro s
  refine ⟨lcg s.prng, lcg (lcg s.prng),
    (lcg s.prng).extractLsb' 32 32 ++ (lcg (lcg s.prng)).extractLsb' 32 32, lcg_toNat _, lcg_toNat _, ?_, rfl⟩
  rw [halves_toNat, highHalf_toNat, highHalf_toNat]

theorem exec_prngF64 (s : State) :
    exec .prngF64 s = .next ({ s with
      prng := lcg s.prng
      res := drawF64 ((lcg s.prng).toNat / 2 ^ 32) }.finished 0x00) := by
  rw [← nextF64_fst]
  rfl

/-- Settles O20: the division is correctly rounded, and the two ends and the range follow from being nearest. -/
theorem prngF64Result : Obligations.PrngF64Result := by
  intro s
  have hu := draw_le (lcg s.prng)
  obtain ⟨m, k, hview, hnear⟩ := drawF64_nearest hu
  obtain ⟨-, hfields⟩ := toNat_of_f64View_fin hview
  exact ⟨lcg s.prng, _, lcg_toNat s.prng, exec_prngF64 s, drawF64_eq_zero_iff hu, drawF64_eq_one_iff hu,
    m, k, hview, hnear.zero_or_normal hfields, hnear.le_one hu, hnear⟩

theorem exec_prngRange (s : State) :
    exec .prngRange s = .next ({ s with
      prng := lcg s.prng
      res := canonicalize (rangeValue s.op.regs.low s.op.regs.high
        (drawF64 ((lcg s.prng).toNat / 2 ^ 32))) }.finished 0x00) := by
  rw [← nextF64_fst]
  rfl

/-- Settles O21: the view of the draw is finite and not negative, and 0 at the draw 0 alone, so the special values are
those of the three operations; an infinity has one pattern, which is HIGH. -/
theorem prngRangeResult : Obligations.PrngRangeResult := by
  intro s
  obtain ⟨n, l, hf, hnear⟩ := drawF64_nearest (draw_le (lcg s.prng))
  have hn := hnear.significand_eq_zero_iff
  refine ⟨lcg s.prng, _, lcg_toNat s.prng, exec_prngRange s, canonicalize_of_nan, canonicalize_of_ne_nan,
    fun h => canonicalize_of_nan (rangeValue_nan h), fun g hlow => canonicalize_of_nan (rangeValue_inf_low hlow hf),
    fun g h m k hlow hhigh => ?_, fun g h m k hlow hsub => ?_⟩
  · obtain ⟨-, -, -, -, -, -, hsub, -⟩ := f64View_inf_fin hhigh hlow
    have hres := canonicalize_rangeValue_inf_difference hlow hsub hf
    rw [← eq_f64Inf_of_f64View hhigh] at hres
    exact hres.trans (if_congr hn rfl rfl)
  · have hres := canonicalize_rangeValue_inf_difference hlow hsub hf
    split <;> rename_i hdraw
    · rwa [if_pos (hn.mpr hdraw)] at hres
    · rw [if_neg (mt hn.mp hdraw)] at hres
      exact hres ▸ f64View_f64Inf g

theorem exec_prngBytes_of_fits {s : State} (h : s.op.regs.addr.toNat + s.op.regs.len.toNat ≤ s.cfg.bufSize) :
    exec .prngBytes s = .next ({ s with
      buf := s.buf.store s.op.regs.addr.toNat (getRandomBytes s.prng s.op.regs.len.toNat).1
      prng := lcg^[(s.op.regs.len.toNat + 3) / 4] s.prng }.finished 0x00) := by
  rw [← getRandomBytes_state]
  obtain ⟨hno, -⟩ | ⟨-, hexec⟩ := execPrngBytes_cases s
  · rw [regionFits_iff.mpr h] at hno
    cases hno
  · exact hexec

theorem exec_prngBytes_of_not_fits {s : State} (h : s.cfg.bufSize < s.op.regs.addr.toNat + s.op.regs.len.toNat) :
    exec .prngBytes s = .next (s.finished 0x11) := by
  obtain ⟨-, hexec⟩ | ⟨hfits, -⟩ := execPrngBytes_cases s
  · exact hexec
  · exact absurd (regionFits_iff.mp hfits) h.not_ge

/-- Settles O22: the region's bytes are the byte stream of the draws, and a store keeps every other byte. -/
theorem prngBytesResult : Obligations.PrngBytesResult := by
  refine fun s => ⟨fun hfits => ⟨_, exec_prngBytes_of_fits hfits, fun k hk => ?_, fun a hout => ?_⟩,
    exec_prngBytes_of_not_fits⟩
  · rw [← getRandomBytes_getD s.prng hk]
    refine (s.byte_store .buf .buf _ _ _).trans ?_
    rw [getRandomBytes_length, if_pos ⟨rfl, by omega, by omega⟩, Nat.add_sub_cancel_left]
  · refine (s.byte_store .buf .buf _ _ a).trans (if_neg ?_)
    rw [getRandomBytes_length]
    exact fun hin => hout hin.2

end Sys2Proof.Machine
end

section
/-! The key-stream function and KEYGEN (42_keystream.md): the key-stream byte by byte, and when two passwords have one
key-stream. -/

namespace Sys2Proof.Machine

/-! ### The bytes of the key-stream -/

/-- With no special case: in the empty password every index is out of range, and reads the default 0. -/
theorem keystream_eq_map (m : Nat) (p : List Byte) :
    keystream m p = (List.range m).map fun k => p.getD (k % p.length) 0 := by
  unfold keystream
  split
  next h => simp [List.length_eq_zero_iff.mp h]
  next => rfl

theorem keystream_getD {m k : Nat} (hk : k < m) (p : List Byte) :
    (keystream m p).getD k 0 = p.getD (k % p.length) 0 := by
  simp [keystream_eq_map, hk]

/-- The bytes at the indices below `m` decide the key-stream. -/
theorem keystream_congr {m : Nat} {p q : List Byte}
    (h : ∀ k < m, p.getD (k % p.length) 0 = q.getD (k % q.length) 0) : keystream m p = keystream m q := by
  rw [keystream_eq_map, keystream_eq_map]
  exact List.map_congr_left fun k hk => h k (List.mem_range.mp hk)

/-! ### Passwords with one key-stream -/

/-- In the second copy of a doubled list, the index counts on from the length. -/
theorem getD_append_self {p : List Byte} {i : Nat} (hi : i < p.length + p.length) :
    (p ++ p).getD i 0 = p.getD (i % p.length) 0 := by
  by_cases h : i < p.length
  · rw [List.getD_append _ _ _ _ h, Nat.mod_eq_of_lt h]
  · have hle := Nat.not_lt.mp h
    rw [List.getD_append_right _ _ _ _ hle, Nat.mod_eq_sub_mod hle, Nat.mod_eq_of_lt (by omega)]

/-- The index into the doubled password, reduced again, is the index into the password. -/
theorem keystream_append_self (m : Nat) (p : List Byte) : keystream m (p ++ p) = keystream m p := by
  by_cases hp : p = []
  · rw [hp, List.append_nil]
  · have hpos := List.length_pos_iff.mpr hp
    refine keystream_congr fun k _ => ?_
    rw [List.length_append, getD_append_self (Nat.mod_lt k (by omega)),
      Nat.mod_mod_of_dvd k (Dvd.intro_left 2 (two_mul p.length))]

/-- No index below `m` wraps round. -/
theorem keystream_eq_take {m : Nat} {p : List Byte} (h : m ≤ p.length) : keystream m p = p.take m := by
  refine List.ext_getElem (by simpa using h) fun k hk _ => ?_
  rw [keystream_length] at hk
  have hkp := Nat.lt_of_lt_of_le hk h
  simp [keystream_eq_map, Nat.mod_eq_of_lt hkp, hkp]

theorem keystream_replicate_zero (m n : Nat) : keystream m (List.replicate n 0) = keystream m [] :=
  keystream_congr fun k _ => by simp

/-- Settles O24: the three kinds of password index their bytes alike, and encrypt and decrypt read a password through its
key-stream alone (42_keystream.md R192). -/
theorem passwordsWithOneKeystream : Obligations.PasswordsWithOneKeystream :=
  ⟨keystream_append_self, fun _ _ => keystream_eq_take, keystream_replicate_zero,
    fun _ _ _ _ _ _ h => ⟨by simp only [encryptToken, h], by simp only [decryptToken, h]⟩⟩

/-! ### KEYGEN -/

theorem passwordFits_iff {p : Params} {r : Regs} : passwordFits p r = true ↔ r.pwLen.toNat ≤ p.pwMax := by
  simp [passwordFits]

@[simp] theorem State.password_length (s : State) : s.password.length = s.op.regs.pwLen.toNat := by
  simp [State.password]

theorem State.password_getD (s : State) (k : Nat) :
    s.password.getD k 0 = if k < s.op.regs.pwLen.toNat then s.byte .pw k else 0 := by
  rw [State.password, List.getD_eq_getElem?_getD, State.bytes_getElem?, Nat.zero_add]
  split <;> rfl

/-- The key-stream of the command's password, in the bytes of PW. -/
theorem keystream_password_getD (s : State) {m k : Nat} (hk : k < m) :
    (keystream m s.password).getD k 0 =
      if s.op.regs.pwLen.toNat = 0 then 0 else s.byte .pw (k % s.op.regs.pwLen.toNat) := by
  rw [keystream_getD hk, State.password_length, State.password_getD]
  by_cases h : s.op.regs.pwLen.toNat = 0
  · rw [if_pos h, if_neg (by omega)]
  · rw [if_neg h, if_pos (Nat.mod_lt k (Nat.pos_of_ne_zero h))]

theorem exec_keygen_of_fits {s : State} (h : s.op.regs.pwLen.toNat ≤ s.cfg.pwMax) :
    exec .keygen s = .next ({ s with ks := s.ks.store 0 (keystream s.msize s.password) }.finished 0x00) := by
  obtain ⟨hno, -⟩ | ⟨-, hexec⟩ := execKeygen_cases s
  · rw [passwordFits_iff.mpr h] at hno
    cases hno
  · exact hexec

theorem exec_keygen_of_not_fits {s : State} (h : s.cfg.pwMax < s.op.regs.pwLen.toNat) :
    exec .keygen s = .next (s.finished 0x11) := by
  obtain ⟨-, hexec⟩ | ⟨hfits, -⟩ := execKeygen_cases s
  · exact hexec
  · exact absurd (passwordFits_iff.mp hfits) h.not_ge

/-- Settles O23: KS holds the key-stream below M, and the store keeps the bytes from M on. -/
theorem keygenResult : Obligations.KeygenResult := by
  refine fun s => ⟨fun hfits => ⟨_, exec_keygen_of_fits hfits, fun k hk => ?_, fun k hk => ?_⟩, exec_keygen_of_not_fits⟩
  · rw [← keystream_password_getD s hk]
    refine (s.byte_store .ks .ks _ _ k).trans (if_pos ?_)
    rw [keystream_length]
    exact ⟨rfl, k.zero_le, by rwa [Nat.zero_add]⟩
  · refine (s.byte_store .ks .ks _ _ k).trans (if_neg ?_)
    rw [keystream_length, Nat.zero_add]
    exact fun hin => hk.not_gt hin.2.2

end Sys2Proof.Machine
end

section
/-! The swap list (43_permutation.md R200 to R202): the pivots, the index draw in binary64, and the pairs. -/

namespace Sys2Proof.Machine

/-! ### The pivots -/

theorem pivots_length (n step : Nat) : (pivots n step).length = (n - 1 + (step - 1)) / step := by
  rw [pivots, List.length_map, List.length_range]

/-- The descent stops when it would reach 0: there is a pivot `k` exactly while `n-1-k*step` is at least 1. -/
theorem lt_pivots_length_iff {n step k : Nat} (hstep : 1 ≤ step) :
    k < (pivots n step).length ↔ k * step < n - 1 := by
  rw [pivots_length, Nat.lt_iff_add_one_le, Nat.le_div_iff_mul_le hstep, Nat.succ_mul]
  omega

theorem mem_pivots {n step i : Nat} :
    i ∈ pivots n step ↔ ∃ k < (pivots n step).length, n - 1 - k * step = i := by
  rw [pivots_length]
  simp only [pivots, List.mem_map, List.mem_range]

theorem mem_pivots_iff {n step i : Nat} (hstep : 1 ≤ step) :
    i ∈ pivots n step ↔ 1 ≤ i ∧ ∃ k, i + k * step + 1 = n := by
  rw [mem_pivots]
  constructor
  · rintro ⟨k, hk, rfl⟩
    have hlt := (lt_pivots_length_iff hstep).mp hk
    exact ⟨by omega, k, by omega⟩
  · rintro ⟨hi, k, rfl⟩
    exact ⟨k, (lt_pivots_length_iff hstep).mpr (by omega), by omega⟩

/-- Also for step 0, which has no pivots. -/
theorem pivot_bounds {n step i : Nat} (h : i ∈ pivots n step) : 1 ≤ i ∧ i < n := by
  obtain rfl | hstep := Nat.eq_zero_or_pos step
  · simp [pivots] at h
  · obtain ⟨hi, k, hk⟩ := (mem_pivots_iff hstep).mp h
    exact ⟨hi, by omega⟩

theorem pivots_pairwise {n step : Nat} (hstep : 1 ≤ step) : (pivots n step).Pairwise (fun a b => b < a) := by
  refine List.pairwise_map.mpr (List.pairwise_lt_range.imp_of_mem fun {k l} _ hl hkl => ?_)
  have hlast : l * step < n - 1 := by
    rw [← lt_pivots_length_iff hstep, pivots_length]
    exact List.mem_range.mp hl
  have hmul : k * step < l * step := Nat.mul_lt_mul_of_pos_right hkl hstep
  omega

/-- Settles O25: the count is the least number of steps that reach 0, and the last pivot is the last one above it. -/
theorem pivotSequence : Obligations.PivotSequence := by
  refine fun n step hstep => ⟨fun i => mem_pivots_iff hstep, pivots_pairwise hstep, fun hn => ?_⟩
  have hcount (k : Nat) := lt_pivots_length_iff (n := n) (k := k) hstep
  refine ⟨Nat.le_of_not_lt (mt (hcount _).mpr (lt_irrefl _)), ?_⟩
  cases hlength : (pivots n step).length with
  | zero => omega
  | succ k =>
    have hlast := (hcount k).mp (by omega)
    rw [Nat.succ_mul]
    omega

/-! ### Exact values in binary64 -/

section
variable {x y : DWord} {s t neg : Bool} {m k n l p j : Nat}

theorem f64View_lastPlace_le (h : f64View x = .fin neg m k) : k ≤ 2045 := by
  have hexp : x.toNat / 2 ^ 52 % 2 ^ 11 < 2 ^ 11 := Nat.mod_lt _ (by decide)
  rw [f64View_eq] at h
  split at h
  · split at h <;> cases h
  · split at h <;> cases h <;> omega

/-- A value that is a binary64 value already is not rounded away from it. -/
theorem f64Round_exact (h : f64View x = .fin neg m k) : f64Round neg (m * 2 ^ k) 1 = x := by
  have hm := f64View_significand_lt h
  have hk := f64View_lastPlace_le h
  have hfinite : m * 2 ^ k < (2 ^ 54 - 1) * 2 ^ 2044 * 1 := by
    calc m * 2 ^ k ≤ (2 ^ 53 - 1) * 2 ^ 2045 := by gcongr <;> omega
      _ = (2 ^ 53 - 1) * 2 * 2 ^ 2044 := by rw [mul_assoc, ← pow_succ']
      _ < (2 ^ 54 - 1) * 2 ^ 2044 * 1 := by rw [mul_one]; gcongr; decide
  obtain ⟨p, j, hview, hunits⟩ := f64View_f64Round_finite neg Nat.one_pos hfinite
  obtain ⟨hnear, -⟩ := significand_nearest (m * 2 ^ k) Nat.one_pos hm k
  rw [mul_one, mul_one, sub_self, abs_zero] at hnear
  refine eq_of_units_eq hview h (hunits.trans ?_)
  exact Int.natCast_inj.mp (sub_eq_zero.mp (abs_nonpos_iff.mp hnear))

/-- A non-negative sum that is a binary64 value is that value. An exact zero sum is plus zero, since not both operands
are negative. -/
theorem fadd_exact (hx : f64View x = .fin s m k) (hy : f64View y = .fin t n l) (hsign : (s && t) = false) {z : DWord}
    (hz : f64View z = .fin false p j) (hsum : f64Units s m k + f64Units t n l = ((p * 2 ^ j : Nat) : Int)) :
    fadd x y = z := by
  obtain hzero | hpos := Nat.eq_zero_or_pos (p * 2 ^ j)
  · simp only [fadd, hx, hy, hsum, hzero, hsign]
    exact eq_of_units_eq (f64View_f64Zero false) hz (by rw [hzero, zero_mul])
  · have hne : ((p * 2 ^ j : Nat) : Int) ≠ 0 := by omega
    simp only [fadd, hx, hy, hsum, if_neg hne, Int.natAbs_natCast]
    rw [decide_eq_false (by omega)]
    exact f64Round_exact hz

/-- Adding to plus zero, as R200 says. -/
theorem f64Zero_fadd (hx : f64View x = .fin false m k) : fadd (f64Zero false) x = x :=
  fadd_exact (f64View_f64Zero false) hx rfl hx (by simp [f64Units])

/-- Subtracting plus zero, as R200 says. -/
theorem fsub_f64Zero (hx : f64View x = .fin false m k) : fsub x (f64Zero false) = x :=
  fadd_exact hx (f64View_f64Neg_fin (f64View_f64Zero false)) rfl hx (by simp [f64Units])

end

/-- No binary64 value from 0 to 1 takes an integer past itself by multiplication: the exact product is at most the
integer, which is a binary64 value, so the rounded product is too. At 1 the product is the integer. -/
theorem fmul_f64OfNat_bounds {i : Nat} {f : DWord} {m k : Nat} (hi : i < 2 ^ 53) (hf : f64View f = .fin false m k)
    (hle : m * 2 ^ k ≤ 2 ^ 1074) :
    ∃ n l, f64View (fmul (f64OfNat i) f) = .fin false n l ∧ n * 2 ^ l ≤ i * 2 ^ 1074 ∧
      (m * 2 ^ k = 2 ^ 1074 → n * 2 ^ l = i * 2 ^ 1074) := by
  obtain ⟨mi, ki, hview, hunits⟩ := f64View_f64OfNat hi
  obtain ⟨-, hround⟩ := fmul_correctlyRounded hview hf
  have hpos : 0 < 2 ^ 1074 := pow_pos two_pos 1074
  have hprod : i * 2 ^ 1074 * (m * 2 ^ k) ≤ i * 2 ^ 1074 * 2 ^ 1074 := Nat.mul_le_mul_left _ hle
  rw [hunits] at hround
  have hfinite : i * 2 ^ 1074 * (m * 2 ^ k) < (2 ^ 54 - 1) * 2 ^ 2044 * 2 ^ 1074 :=
    hprod.trans_lt (Nat.mul_lt_mul_of_pos_right (units_lt_overflow hi) hpos)
  obtain ⟨n, l, hresult, hnear⟩ := hround hfinite.not_ge
  obtain ⟨hdist, -⟩ := hnear _ _ _ hview
  rw [hunits] at hdist
  refine ⟨n, l, hresult, ?_, fun hone => ?_⟩
  · refine Nat.le_of_mul_le_mul_right ?_ hpos
    rw [Int.abs_eq_natAbs, Int.abs_eq_natAbs] at hdist
    generalize i * 2 ^ 1074 * 2 ^ 1074 = u at *
    generalize n * 2 ^ l * 2 ^ 1074 = w at *
    omega
  · rw [hone, sub_self, abs_zero] at hdist
    exact Nat.mul_right_cancel hpos (Int.natCast_inj.mp (sub_eq_zero.mp (abs_nonpos_iff.mp hdist)))

/-- Every draw takes one LCG step, whatever the pivot. -/
theorem drawIndex_snd (s : DWord) (i : Nat) : (drawIndex s i).2 = lcg s := rfl

theorem drawIndex_fst (s : DWord) (i : Nat) : (drawIndex s i).1 =
    f64Floor (rangeValue (f64Zero false) (f64OfNat i) (drawF64 ((lcg s).toNat / 2 ^ 32))) := by
  rw [← nextF64_fst]
  rfl

theorem f64Floor_of_view {x : DWord} {m k : Nat} (h : f64View x = .fin false m k) :
    f64Floor x = m * 2 ^ k / 2 ^ 1074 := by
  rw [f64Floor, h]

/-- The draw is from 0 to 1, so the product with the pivot is from 0 to the pivot. -/
theorem drawF64_fmul_bounds {i u : Nat} (hi : i < 2 ^ 53) (hu : u ≤ 4294967295) :
    ∃ n l, f64View (fmul (f64OfNat i) (drawF64 u)) = .fin false n l ∧ n * 2 ^ l ≤ i * 2 ^ 1074 ∧
      (u = 4294967295 → n * 2 ^ l = i * 2 ^ 1074) := by
  obtain ⟨m, k, hview, hnear⟩ := drawF64_nearest hu
  obtain ⟨n, l, hresult, hle, hone⟩ := fmul_f64OfNat_bounds hi hview (hnear.le_one hu)
  exact ⟨n, l, hresult, hle, fun h => hone (hnear.units_eq_one h)⟩

/-- The range of gen_range starts at plus zero, so its difference and its sum change nothing (43_permutation.md R200). -/
theorem rangeValue_f64Zero {i u : Nat} (hi : i < 2 ^ 53) (hu : u ≤ 4294967295) :
    rangeValue (f64Zero false) (f64OfNat i) (drawF64 u) = fmul (f64OfNat i) (drawF64 u) := by
  obtain ⟨_, _, hpivot, -⟩ := f64View_f64OfNat hi
  obtain ⟨_, _, hproduct, -⟩ := drawF64_fmul_bounds hi hu
  rw [rangeValue, fsub_f64Zero hpivot, f64Zero_fadd hproduct]

theorem drawIndex_le {i : Nat} (s : DWord) (hi : i < 2 ^ 53) : (drawIndex s i).1 ≤ i := by
  have hu := draw_le (lcg s)
  obtain ⟨n, l, hview, hle, -⟩ := drawF64_fmul_bounds hi hu
  rw [drawIndex_fst, rangeValue_f64Zero hi hu, f64Floor_of_view hview]
  exact Nat.div_le_of_le_mul (hle.trans_eq (mul_comm _ _))

theorem drawIndex_of_largest_draw {i : Nat} {s : DWord} (hi : i < 2 ^ 53)
    (hlargest : (lcg s).toNat / 2 ^ 32 = 4294967295) : (drawIndex s i).1 = i := by
  have hu := draw_le (lcg s)
  obtain ⟨n, l, hview, -, heq⟩ := drawF64_fmul_bounds hi hu
  rw [drawIndex_fst, rangeValue_f64Zero hi hu, f64Floor_of_view hview, heq hlargest]
  exact Nat.mul_div_cancel _ (pow_pos two_pos 1074)

/-- Settles O26: the bounds of a binary64 product of the pivot with a value from 0 to 1. -/
theorem swapIndexDraw : Obligations.SwapIndexDraw := by
  intro s i _ hi
  have hi53 : i < 2 ^ 53 := by omega
  refine ⟨?_, drawIndex_le s hi53, drawIndex_of_largest_draw hi53, drawIndex_snd s i⟩
  rw [drawIndex_fst, rangeValue_f64Zero hi53 (draw_le _)]
  rfl

/-! ### The swap list -/

theorem swapsFrom_cons (s : DWord) (i : Nat) (is : List Nat) :
    swapsFrom s (i :: is) = (i, (drawIndex s i).1) :: swapsFrom (lcg s) is := rfl

theorem swapsFrom_length (s : DWord) (is : List Nat) : (swapsFrom s is).length = is.length := by
  induction is generalizing s with
  | nil => rfl
  | cons i is ih => rw [swapsFrom_cons, List.length_cons, List.length_cons, ih]

theorem swapsFrom_getElem? (s : DWord) (is : List Nat) (k : Nat) :
    (swapsFrom s is)[k]? = is[k]?.map fun i => (i, (drawIndex (lcg^[k] s) i).1) := by
  induction is generalizing s k with
  | nil => rfl
  | cons i is ih =>
    rw [swapsFrom_cons]
    cases k with
    | zero => rfl
    | succ k => rw [List.getElem?_cons_succ, List.getElem?_cons_succ, ih, Function.iterate_succ_apply]

/-- Settles O27: one pair per pivot, by induction on the pivots, for every state to start from. -/
theorem swapListDraws : Obligations.SwapListDraws := by
  refine fun seed step n => ⟨swapsFrom_length _ _, fun k i hi => ?_⟩
  rw [swaps, swapsFrom_getElem?, hi]
  rfl

/-- Both indices of an exchange lie in the sequence, for every buffer. -/
theorem swaps_in_range {seed : DWord} {step n : Nat} (hn : n ≤ 2 ^ 28) :
    ∀ p ∈ swaps seed step n, p.1 < n ∧ p.2 < n := by
  intro p hp
  obtain ⟨k, hk⟩ := List.getElem?_of_mem hp
  rw [swaps, swapsFrom_getElem?] at hk
  obtain ⟨i, hi, rfl⟩ := Option.map_eq_some_iff.mp hk
  obtain ⟨-, hlt⟩ := pivot_bounds (List.mem_of_getElem? hi)
  exact ⟨hlt, (drawIndex_le _ (by omega)).trans_lt hlt⟩

end Sys2Proof.Machine
end

section
/-! What a list of exchanges does to a byte sequence, and SHUFFLE and UNSHUFFLE (43_permutation.md R203 to R208). -/

namespace Sys2Proof.Machine

/-! ### Exchanges -/

/-- Everything an exchange can do. -/
theorem swapAt_cases (d : List Byte) (i j : Nat) :
    (∃ (hi : i < d.length) (hj : j < d.length), swapAt d i j = (d.set i d[j]).set j d[i]) ∨
    (¬ (i < d.length ∧ j < d.length) ∧ swapAt d i j = d) := by
  by_cases hi : i < d.length
  · by_cases hj : j < d.length
    · exact .inl ⟨hi, hj, by simp only [swapAt, List.getElem?_eq_getElem, hi, hj]⟩
    · exact .inr ⟨fun h => hj h.2, by simp [swapAt, Nat.not_lt.mp hj]⟩
  · exact .inr ⟨fun h => hi h.1, by simp [swapAt, Nat.not_lt.mp hi]⟩

/-- An exchange moves the byte that the transposition of its indices names. -/
theorem swapAt_getElem? {d : List Byte} {i j : Nat} (hi : i < d.length) (hj : j < d.length) (k : Nat) :
    (swapAt d i j)[k]? = d[Equiv.swap i j k]? := by
  obtain ⟨_, _, hswap⟩ | ⟨hout, -⟩ := swapAt_cases d i j
  · rw [hswap, List.getElem?_set, List.getElem?_set, List.length_set]
    obtain rfl | hkj := eq_or_ne k j
    · rw [if_pos rfl, if_pos hj, Equiv.swap_apply_right, List.getElem?_eq_getElem hi]
    · rw [if_neg hkj.symm]
      obtain rfl | hki := eq_or_ne k i
      · rw [if_pos rfl, if_pos hi, Equiv.swap_apply_left, List.getElem?_eq_getElem hj]
      · rw [if_neg hki.symm, Equiv.swap_apply_of_ne_of_ne hki hkj]
  · exact absurd ⟨hi, hj⟩ hout

/-- Each exchange is its own inverse (43_permutation.md R205). -/
theorem swapAt_swapAt (d : List Byte) (i j : Nat) : swapAt (swapAt d i j) i j = d := by
  by_cases hin : i < d.length ∧ j < d.length
  · obtain ⟨hi, hj⟩ := hin
    refine List.ext_getElem? fun k => ?_
    rw [swapAt_getElem? (by rwa [swapAt_length]) (by rwa [swapAt_length]), swapAt_getElem? hi hj, Equiv.swap_apply_self]
  · obtain ⟨hi, hj, -⟩ | ⟨-, hsame⟩ := swapAt_cases d i j
    · exact absurd ⟨hi, hj⟩ hin
    · rw [hsame, hsame]

theorem swapAt_perm (d : List Byte) (i j : Nat) : (swapAt d i j).Perm d := by
  obtain ⟨hi, hj, hswap⟩ | ⟨-, hsame⟩ := swapAt_cases d i j
  · rw [hswap]
    exact List.set_set_perm hi hj
  · rw [hsame]

theorem swapAt_map (f : Byte → Byte) (d : List Byte) (i j : Nat) : swapAt (d.map f) i j = (swapAt d i j).map f := by
  simp only [swapAt, List.getElem?_map]
  cases d[i]? <;> cases d[j]? <;> simp [List.map_set]

/-! ### Lists of exchanges -/

theorem applySwaps_append (l r : List (Nat × Nat)) (d : List Byte) :
    applySwaps (l ++ r) d = applySwaps r (applySwaps l d) := List.foldl_append

/-- The exchanges undone from last to first (43_permutation.md R205). -/
theorem applySwaps_reverse_applySwaps (l : List (Nat × Nat)) (d : List Byte) :
    applySwaps l.reverse (applySwaps l d) = d := by
  induction l generalizing d with
  | nil => rfl
  | cons p l ih =>
    rw [applySwaps_cons, List.reverse_cons, applySwaps_append, ih, applySwaps_cons, applySwaps_nil, swapAt_swapAt]

theorem applySwaps_perm (l : List (Nat × Nat)) (d : List Byte) : (applySwaps l d).Perm d := by
  induction l generalizing d with
  | nil => exact .refl d
  | cons p l ih => exact (ih _).trans (swapAt_perm d p.1 p.2)

theorem applySwaps_map (f : Byte → Byte) (l : List (Nat × Nat)) (d : List Byte) :
    applySwaps l (d.map f) = (applySwaps l d).map f := by
  induction l generalizing d with
  | nil => rfl
  | cons p l ih => rw [applySwaps_cons, applySwaps_cons, swapAt_map, ih]

/-- The product of the exchanges of a list, the first one leftmost and so applied last. -/
def exchangeProd (l : List (Nat × Nat)) : Equiv.Perm Nat := (l.map fun p => Equiv.swap p.1 p.2).prod

theorem exchangeProd_cons (p : Nat × Nat) (l : List (Nat × Nat)) (k : Nat) :
    exchangeProd (p :: l) k = Equiv.swap p.1 p.2 (exchangeProd l k) := by
  rw [exchangeProd, List.map_cons, List.prod_cons, Equiv.Perm.mul_apply]
  rfl

/-- The last exchange made is the first one an index is traced back through. -/
theorem applySwaps_getElem? {l : List (Nat × Nat)} {d : List Byte}
    (hl : ∀ p ∈ l, p.1 < d.length ∧ p.2 < d.length) (k : Nat) :
    (applySwaps l d)[k]? = d[exchangeProd l k]? := by
  induction l generalizing d with
  | nil => rfl
  | cons p l ih =>
    obtain ⟨⟨hi, hj⟩, htail⟩ := List.forall_mem_cons.mp hl
    rw [applySwaps_cons, ih (by simpa only [swapAt_length] using htail), swapAt_getElem? hi hj, exchangeProd_cons]

/-- The exchanges take the indices of the sequence to indices of the sequence. -/
theorem exchangeProd_lt {l : List (Nat × Nat)} {d : List Byte} (hl : ∀ p ∈ l, p.1 < d.length ∧ p.2 < d.length)
    {k : Nat} (hk : k < d.length) : exchangeProd l k < d.length := by
  have hsome := applySwaps_getElem? hl k
  rw [List.getElem?_eq_getElem (by rwa [applySwaps_length])] at hsome
  exact (List.getElem?_eq_some_iff.mp hsome.symm).1

/-- Settles O28: each claim by induction on the swap list, whose exchanges are the same for every sequence of the
length. -/
theorem shufflePermutesIndependentlyOfData : Obligations.ShufflePermutesIndependentlyOfData := by
  refine fun d seed step => ⟨applySwaps_perm _ d, applySwaps_perm _ d, fun f => ?_, fun hd k hk => ?_⟩
  · simp only [shuffle, unshuffle, List.length_map, applySwaps_map, and_self]
  · have hforward := swaps_in_range (seed := seed) (step := step) hd
    have hbackward : ∀ p ∈ (swaps seed step d.length).reverse, p.1 < d.length ∧ p.2 < d.length :=
      fun p hp => hforward p (List.mem_reverse.mp hp)
    rw [← List.map_reverse]
    exact ⟨applySwaps_getElem? hforward k, applySwaps_getElem? hbackward k, exchangeProd_lt hforward hk,
      exchangeProd_lt hbackward hk⟩

/-! ### The inverse law -/

theorem unshuffle_shuffle (d : List Byte) (seed : DWord) (step : Nat) :
    unshuffle (shuffle d seed step) seed step = d := by
  rw [unshuffle, shuffle_length]
  exact applySwaps_reverse_applySwaps _ d

theorem shuffle_unshuffle (d : List Byte) (seed : DWord) (step : Nat) :
    shuffle (unshuffle d seed step) seed step = d := by
  have hback := applySwaps_reverse_applySwaps (swaps seed step d.length).reverse d
  rw [List.reverse_reverse] at hback
  rwa [shuffle, unshuffle_length]

/-- Settles O29: the swap list depends on the length alone, and both functions keep it. -/
theorem shuffleInverse : Obligations.ShuffleInverse := fun d seed step _ =>
  ⟨unshuffle_shuffle d seed step, shuffle_unshuffle d seed step⟩

/-! ### Storing a region again -/

/-- A second store of the same length to the same place hides the first one. -/
theorem State.byte_store_store (s : State) (id j : MemId) (a : Nat) {bs cs : List Byte} (h : cs.length = bs.length)
    (x : Nat) : ((s.store id a bs).store id a cs).byte j x = (s.store id a cs).byte j x := by
  simp only [State.byte_store, h]
  split <;> rfl

/-- Storing the bytes that are already there changes none. -/
theorem State.byte_store_bytes (s : State) (id j : MemId) (a n x : Nat) :
    (s.store id a (s.bytes id a n)).byte j x = s.byte j x := by
  rw [State.byte_store, State.bytes_length]
  split
  next hin =>
    obtain ⟨rfl, hlo, hhi⟩ := hin
    rw [List.getD_eq_getElem?_getD, State.bytes_getElem?, if_pos (by omega), Nat.add_sub_cancel' hlo]
    rfl
  next => rfl

theorem State.byte_store_congr {s t : State} (h : ∀ id x, t.byte id x = s.byte id x) (id j : MemId) (a : Nat)
    (bs : List Byte) (x : Nat) : (t.store id a bs).byte j x = (s.store id a bs).byte j x := by
  rw [State.byte_store, State.byte_store, h]

theorem State.bytes_congr {s t : State} (h : ∀ id x, t.byte id x = s.byte id x) (id : MemId) (a n : Nat) :
    t.bytes id a n = s.bytes id a n := by
  simp only [State.bytes, h]

/-! ### SHUFFLE and UNSHUFFLE -/

section
variable {f : List Byte → DWord → Nat → List Byte} {s : State}

/-- The command where it completes without error: the state with the stored region (43_permutation.md R207, R208). -/
theorem permuteRegion_of_fits (hfits : s.op.regs.addr.toNat + s.op.regs.len.toNat ≤ s.cfg.bufSize)
    (hstep : s.op.regs.step ≠ 0) : permuteRegion f s =
      (s.store .buf s.op.regs.addr.toNat (f s.region s.op.regs.seed s.op.regs.step.toNat)).complete .ok := by
  obtain ⟨hno, -⟩ | ⟨-, hzero, -⟩ | ⟨-, -, hstored⟩ := permuteRegion_cases f s
  · rw [regionFits_iff.mpr hfits] at hno
    cases hno
  · exact absurd hzero hstep
  · exact hstored

/-- A region stored over itself: it reads as what was stored. -/
theorem State.bytes_store_region {bs : List Byte} (hbs : bs.length = s.op.regs.len.toNat) :
    (s.store .buf s.op.regs.addr.toNat bs).bytes .buf s.op.regs.addr.toNat s.op.regs.len.toNat = bs := by
  rw [← hbs]
  exact State.bytes_store_same s .buf _ bs

/-- The region becomes its permutation, and no other byte changes. -/
theorem permuteRegion_result (hf : ∀ d seed n, (f d seed n).length = d.length)
    (hfits : s.op.regs.addr.toNat + s.op.regs.len.toNat ≤ s.cfg.bufSize) (hstep : s.op.regs.step ≠ 0) :
    ∃ m : Memory, permuteRegion f s = { s with buf := m }.finished 0x00 ∧
      ({ s with buf := m } : State).bytes .buf s.op.regs.addr.toNat s.op.regs.len.toNat =
        f s.region s.op.regs.seed s.op.regs.step.toNat ∧
      ∀ a, ¬ (s.op.regs.addr.toNat ≤ a ∧ a < s.op.regs.addr.toNat + s.op.regs.len.toNat) →
        ({ s with buf := m } : State).byte .buf a = s.byte .buf a := by
  have hlength : (f s.region s.op.regs.seed s.op.regs.step.toNat).length = s.op.regs.len.toNat := by
    rw [hf, State.region_length]
  refine ⟨_, permuteRegion_of_fits hfits hstep, State.bytes_store_region hlength, fun a hout => ?_⟩
  refine (s.byte_store .buf .buf _ _ a).trans (if_neg ?_)
  rw [hlength]
  exact fun hin => hout hin.2

/-- Where the region does not fit or STEP is 0, the command is an error and stores nothing. -/
theorem permuteRegion_byte_of_error
    (h : ¬ (s.op.regs.addr.toNat + s.op.regs.len.toNat ≤ s.cfg.bufSize ∧ s.op.regs.step ≠ 0)) (id : MemId) (a : Nat) :
    (permuteRegion f s).byte id a = s.byte id a := by
  obtain ⟨-, hraise⟩ | ⟨-, -, hraise⟩ | ⟨hfits, hstep, -⟩ := permuteRegion_cases f s
  · rw [hraise]
    exact State.byte_complete s _ id a
  · rw [hraise]
    exact State.byte_complete s _ id a
  · exact absurd ⟨regionFits_iff.mp hfits, hstep⟩ h

/-- If `g` undoes `f`, so does its command the command of `f`, in every byte: `t` is the state after that one, with the
same snapshot again. -/
theorem permuteRegion_undo {g : List Byte → DWord → Nat → List Byte} (hf : ∀ d seed n, (f d seed n).length = d.length)
    (hgf : ∀ d seed n, g (f d seed n) seed n = d) {t : State} (hop : t.op = s.op) (hcfg : t.cfg = s.cfg)
    (hbyte : ∀ id a, t.byte id a = (permuteRegion f s).byte id a) (id : MemId) (a : Nat) :
    (permuteRegion g t).byte id a = s.byte id a := by
  by_cases h : s.op.regs.addr.toNat + s.op.regs.len.toNat ≤ s.cfg.bufSize ∧ s.op.regs.step ≠ 0
  · obtain ⟨hfits, hstep⟩ := h
    have hlength : (f s.region s.op.regs.seed s.op.regs.step.toNat).length = s.region.length := hf _ _ _
    rw [permuteRegion_of_fits hfits hstep] at hbyte
    have hregion : t.region = f s.region s.op.regs.seed s.op.regs.step.toNat := by
      rw [State.region, hop, State.bytes_congr hbyte]
      exact State.bytes_store_region (hlength.trans s.region_length)
    rw [permuteRegion_of_fits (by rwa [hop, hcfg]) (by rwa [hop]), hregion, hop, hgf, State.byte_complete,
      State.byte_store_congr hbyte]
    exact (State.byte_store_store s .buf id _ hlength.symm a).trans (State.byte_store_bytes s .buf id _ _ a)
  · rw [permuteRegion_byte_of_error (by rwa [hop, hcfg]), hbyte, permuteRegion_byte_of_error h]

end

/-- Settles O30: one argument for both commands, which keep the length of the region. -/
theorem shuffleAndUnshuffleResults : Obligations.ShuffleAndUnshuffleResults := by
  intro s hfits hstep
  obtain ⟨m, hexec, hresult⟩ := permuteRegion_result shuffle_length hfits hstep
  obtain ⟨m', hexec', hresult'⟩ := permuteRegion_result unshuffle_length hfits hstep
  exact ⟨⟨m, congrArg _ hexec, hresult⟩, ⟨m', congrArg _ hexec', hresult'⟩⟩

/-- Settles O31: the inverse law on the region, or two errors. -/
theorem unshuffleUndoesShuffle : Obligations.UnshuffleUndoesShuffle := by
  intro s
  obtain ⟨hcfg, -⟩ := (exec_frame (i := .shuffle) (s := s) rfl).untouched
  exact ⟨_, _, rfl, rfl, permuteRegion_undo shuffle_length unshuffle_shuffle rfl hcfg fun _ _ => rfl⟩

end Sys2Proof.Machine
end

section
/-! The block mixer, MIX and UNMIX (44_mixer.md R220 to R224): mix and unmix in closed form, the inverse law, and the
commands byte by byte. -/

namespace Sys2Proof.Machine

/-! ### The closed forms

With the key put before a buffer, byte `j` of the whole is the byte one block before byte `j` of the buffer. So mix XORs
the buffer with the key and its own result, and unmix with the key and its own input. -/

/-- Also for block size 0, where the only whole number of blocks is the empty buffer. -/
theorem flatten_blocks_of_whole {bs : Nat} {b : List Byte} (h : b.length % bs = 0) : (blocks bs b).flatten = b := by
  obtain rfl | hbs := Nat.eq_zero_or_pos bs
  · rw [Nat.mod_zero, List.length_eq_zero_iff] at h
    subst h
    rfl
  · exact flatten_blocks hbs h

theorem xorBytes_append {x y : List Byte} (h : x.length = y.length) (x' y' : List Byte) :
    xorBytes (x ++ x') (y ++ y') = xorBytes x y ++ xorBytes x' y' := List.zipWith_append h

theorem flatten_mixBlocks {bs : Nat} {prev : List Byte} {cs : List (List Byte)} (hp : prev.length = bs)
    (h : ∀ c ∈ cs, c.length = bs) :
    (mixBlocks prev cs).flatten = xorBytes cs.flatten (prev ++ (mixBlocks prev cs).flatten) := by
  induction cs generalizing prev with
  | nil => rfl
  | cons c cs ih =>
    obtain ⟨hc, hcs⟩ := List.forall_mem_cons.mp h
    have hx : (xorBytes c prev).length = bs := by rw [xorBytes_length, hc, hp, Nat.min_self]
    rw [mixBlocks, List.flatten_cons, List.flatten_cons, xorBytes_append (hc.trans hp.symm), ← ih hx hcs]

theorem flatten_unmixBlocks {bs : Nat} {prev : List Byte} {cs : List (List Byte)} (hp : prev.length = bs)
    (h : ∀ c ∈ cs, c.length = bs) : (unmixBlocks prev cs).flatten = xorBytes cs.flatten (prev ++ cs.flatten) := by
  induction cs generalizing prev with
  | nil => rfl
  | cons c cs ih =>
    obtain ⟨hc, hcs⟩ := List.forall_mem_cons.mp h
    rw [unmixBlocks, List.flatten_cons, List.flatten_cons, xorBytes_append (hc.trans hp.symm), ih hc hcs]

section
variable {bs : Nat} {b key : List Byte}

/-- Mix in closed form (44_mixer.md R220). -/
theorem mix_eq_xorBytes (h : b.length % bs = 0) (hk : key.length = bs) :
    mix bs b key = xorBytes b (key ++ mix bs b key) := by
  have hmix := flatten_mixBlocks hk fun c (hc : c ∈ blocks bs b) => blocks_mem_length hc
  rwa [flatten_blocks_of_whole h] at hmix

/-- Unmix in closed form (44_mixer.md R221). -/
theorem unmix_eq_xorBytes (h : b.length % bs = 0) (hk : key.length = bs) : unmix bs b key = xorBytes b (key ++ b) := by
  have hunmix := flatten_unmixBlocks hk fun c (hc : c ∈ blocks bs b) => blocks_mem_length hc
  rwa [flatten_blocks_of_whole h] at hunmix

/-! ### The inverse law -/

/-- Unmix XORs the mixed buffer with the very bytes that mix XORed the buffer with. -/
theorem unmix_mix (h : b.length % bs = 0) (hk : key.length = bs) : unmix bs (mix bs b key) key = b := by
  have hlen := mix_length h hk
  calc unmix bs (mix bs b key) key
      = xorBytes (mix bs b key) (key ++ mix bs b key) := unmix_eq_xorBytes (by rwa [hlen]) hk
    _ = xorBytes (xorBytes b (key ++ mix bs b key)) (key ++ mix bs b key) := by rw [← mix_eq_xorBytes h hk]
    _ = b := xorBytes_cancel (by rw [List.length_append, hlen]; omega)

/-- Block by block: mix finds before each unmixed block the block that unmix XORed it with. -/
theorem mixBlocks_unmixBlocks {prev : List Byte} {cs : List (List Byte)} (hp : prev.length = bs)
    (h : ∀ c ∈ cs, c.length = bs) : mixBlocks prev (unmixBlocks prev cs) = cs := by
  induction cs generalizing prev with
  | nil => rfl
  | cons c cs ih =>
    obtain ⟨hc, hcs⟩ := List.forall_mem_cons.mp h
    rw [unmixBlocks, mixBlocks, xorBytes_cancel (hc.trans hp.symm).le, ih hc hcs]

theorem mix_unmix (hbs : 1 ≤ bs) (h : b.length % bs = 0) (hk : key.length = bs) : mix bs (unmix bs b key) key = b := by
  have hblocks : ∀ c ∈ blocks bs b, c.length = bs := fun _ => blocks_mem_length
  rw [mix, unmix, blocks_flatten_of_length hbs (unmixBlocks_mem_length hk hblocks), mixBlocks_unmixBlocks hk hblocks,
    flatten_blocks hbs h]

end

/-- Settles O32: the two directions of the inverse law. -/
theorem mixInverse : Obligations.MixInverse := fun _ _ _ hbs h hk => ⟨unmix_mix h hk, mix_unmix hbs h hk⟩

/-! ### MIX and UNMIX -/

/-- A byte of a sequence XORed with one behind a key: the key's byte, or the byte the key's length before it. -/
theorem xorBytes_append_getD {x y z : List Byte} (h : x.length ≤ y.length + z.length) {j : Nat} (hj : j < x.length) :
    (xorBytes x (y ++ z)).getD j 0 =
      x.getD j 0 ^^^ (if j < y.length then y.getD j 0 else z.getD (j - y.length) 0) := by
  have hyz : j < (y ++ z).length := by rw [List.length_append]; omega
  have hxor : j < (xorBytes x (y ++ z)).length := by rw [xorBytes_length]; exact Nat.lt_min.mpr ⟨hj, hyz⟩
  rw [List.getD_eq_getElem _ _ hxor, List.getD_eq_getElem _ _ hj]
  simp only [xorBytes, List.getElem_zipWith, List.getElem_append]
  split
  next hkey => rw [List.getD_eq_getElem _ _ hkey]
  next => rw [List.getD_eq_getElem _ _ (by omega)]

theorem State.bytes_getD (s : State) (id : MemId) (a : Nat) {n k : Nat} (hk : k < n) :
    (s.bytes id a n).getD k 0 = s.byte id (a + k) := by
  rw [List.getD_eq_getElem?_getD, State.bytes_getElem?, if_pos hk]
  rfl

section
variable {f : Nat → List Byte → List Byte → List Byte} {s : State}

theorem State.region_whole (hlen : s.op.regs.len.toNat % s.msize = 0) : s.region.length % s.msize = 0 := by
  rwa [State.region_length]

/-- The command where it completes without error: the state with the stored region (44_mixer.md R223, R224). -/
theorem mixRegion_of_fits (hfits : s.op.regs.addr.toNat + s.op.regs.len.toNat ≤ s.cfg.bufSize)
    (hlen : s.op.regs.len.toNat % s.msize = 0) : mixRegion f s =
      (s.store .buf s.op.regs.addr.toNat (f s.msize s.region s.mixKey)).complete .ok := by
  obtain ⟨hno, -⟩ | ⟨-, hrest, -⟩ | ⟨-, -, hstored⟩ := mixRegion_cases f s
  · rw [regionFits_iff.mpr hfits] at hno
    cases hno
  · exact absurd hlen hrest
  · exact hstored

/-- Where the region does not fit or is no whole number of blocks, the command is an error and stores nothing. -/
theorem mixRegion_byte_of_error
    (h : ¬ (s.op.regs.addr.toNat + s.op.regs.len.toNat ≤ s.cfg.bufSize ∧ s.op.regs.len.toNat % s.msize = 0))
    (id : MemId) (a : Nat) : (mixRegion f s).byte id a = s.byte id a := by
  obtain ⟨-, hraise⟩ | ⟨-, -, hraise⟩ | ⟨hfits, hlen, -⟩ := mixRegion_cases f s
  · rw [hraise]
    exact State.byte_complete s _ id a
  · rw [hraise]
    exact State.byte_complete s _ id a
  · exact absurd ⟨regionFits_iff.mp hfits, hlen⟩ h

/-- The region becomes what `f` makes of it, and no other byte changes. -/
theorem mixRegion_result
    (hf : ∀ {m : Nat} {b key : List Byte}, b.length % m = 0 → key.length = m → (f m b key).length = b.length)
    (hfits : s.op.regs.addr.toNat + s.op.regs.len.toNat ≤ s.cfg.bufSize)
    (hlen : s.op.regs.len.toNat % s.msize = 0) :
    ∃ m : Memory, mixRegion f s = { s with buf := m }.finished 0x00 ∧
      ({ s with buf := m } : State).bytes .buf s.op.regs.addr.toNat s.op.regs.len.toNat =
        f s.msize s.region s.mixKey ∧
      ∀ a, ¬ (s.op.regs.addr.toNat ≤ a ∧ a < s.op.regs.addr.toNat + s.op.regs.len.toNat) →
        ({ s with buf := m } : State).byte .buf a = s.byte .buf a := by
  have hlength : (f s.msize s.region s.mixKey).length = s.op.regs.len.toNat := by
    rw [hf (State.region_whole hlen) s.mixKey_length, State.region_length]
  refine ⟨_, mixRegion_of_fits hfits hlen, State.bytes_store_region hlength, fun a hout => ?_⟩
  refine (s.byte_store .buf .buf _ _ a).trans (if_neg ?_)
  rw [hlength]
  exact fun hin => hout hin.2

/-- Both closed forms in bytes: `t` is the state after the command, and `u` the one whose region stands behind the key,
`t` itself after MIX and `s` after UNMIX. -/
theorem byte_of_region_eq_xorBytes {t u : State}
    (h : t.bytes .buf s.op.regs.addr.toNat s.op.regs.len.toNat =
      xorBytes s.region (s.mixKey ++ u.bytes .buf s.op.regs.addr.toNat s.op.regs.len.toNat))
    {j : Nat} (hj : j < s.op.regs.len.toNat) :
    t.byte .buf (s.op.regs.addr.toNat + j) = s.byte .buf (s.op.regs.addr.toNat + j) ^^^
      (if j < s.msize then s.byte .ks j else u.byte .buf (s.op.regs.addr.toNat + (j - s.msize))) := by
  rw [← State.bytes_getD t _ _ hj, h, xorBytes_append_getD (by simp) (by simpa using hj), State.mixKey_length,
    State.region, State.bytes_getD s _ _ hj]
  congr 1
  split
  next hkey => rw [State.mixKey, State.bytes_getD s _ _ hkey, Nat.zero_add]
  next => exact State.bytes_getD u _ _ (by omega)

/-- `t` is the state after MIX, with the same snapshot again. -/
theorem mixRegion_unmix_of_mix {t : State} (hop : t.op = s.op) (hcfg : t.cfg = s.cfg)
    (hbyte : ∀ id a, t.byte id a = (mixRegion mix s).byte id a) (id : MemId) (a : Nat) :
    (mixRegion unmix t).byte id a = s.byte id a := by
  have hmsize : t.msize = s.msize := by rw [State.msize, State.msize, hop]
  by_cases h : s.op.regs.addr.toNat + s.op.regs.len.toNat ≤ s.cfg.bufSize ∧ s.op.regs.len.toNat % s.msize = 0
  · obtain ⟨hfits, hlen⟩ := h
    have hwhole := State.region_whole hlen
    have hlength := mix_length hwhole s.mixKey_length
    rw [mixRegion_of_fits hfits hlen] at hbyte
    have hregion : t.region = mix s.msize s.region s.mixKey := by
      rw [State.region, hop, State.bytes_congr hbyte]
      exact State.bytes_store_region (hlength.trans s.region_length)
    have hkey : t.mixKey = s.mixKey := by
      simp [State.mixKey, State.bytes, hmsize, hbyte, State.byte_store]
    rw [mixRegion_of_fits (by rwa [hop, hcfg]) (by rwa [hop, hmsize]), hregion, hkey, hmsize, hop,
      unmix_mix hwhole s.mixKey_length, State.byte_complete, State.byte_store_congr hbyte]
    exact (State.byte_store_store s .buf id _ hlength.symm a).trans (State.byte_store_bytes s .buf id _ _ a)
  · rw [mixRegion_byte_of_error (by rwa [hop, hcfg, hmsize]), hbyte, mixRegion_byte_of_error h]

end

/-- Settles O33: each command stores its closed form. -/
theorem mixAndUnmixResults : Obligations.MixAndUnmixResults := by
  intro s hfits hlen
  have hwhole := State.region_whole hlen
  obtain ⟨m, hexec, hregion, hframe⟩ := mixRegion_result mix_length hfits hlen
  obtain ⟨m', hexec', hregion', hframe'⟩ := mixRegion_result unmix_length hfits hlen
  refine ⟨⟨m, congrArg _ hexec, fun j => byte_of_region_eq_xorBytes ?_, hframe⟩,
    ⟨m', congrArg _ hexec', fun j => byte_of_region_eq_xorBytes ?_, hframe'⟩⟩
  · rw [hregion]
    exact mix_eq_xorBytes hwhole s.mixKey_length
  · rw [hregion']
    exact unmix_eq_xorBytes hwhole s.mixKey_length

/-- Settles O34: the inverse law on the region and the unchanged key, or two errors. -/
theorem unmixUndoesMix : Obligations.UnmixUndoesMix := by
  intro s
  obtain ⟨hcfg, -⟩ := (exec_frame (i := .mix) (s := s) rfl).untouched
  exact ⟨_, _, rfl, rfl, mixRegion_unmix_of_mix rfl hcfg fun _ _ => rfl⟩

end Sys2Proof.Machine
end

section
/-! The framing functions (45_engine.md R240 to R259): the scrambling of a frame chunk by chunk and what takes it back,
the token byte by byte, and the round trip of encrypt and decrypt. -/

namespace Sys2Proof.Machine

/-! ### Byte sums and big-endian fields -/

theorem byteSum_eq_sum (bs : List Byte) : byteSum bs = (bs.map BitVec.toNat).sum := by
  induction bs with
  | nil => rfl
  | cons b bs ih => rw [byteSum, ih, List.map_cons, List.sum_cons]

theorem byteSum_le (bs : List Byte) : byteSum bs ≤ 255 * bs.length := by
  induction bs with
  | nil => exact le_rfl
  | cons b bs ih =>
    have hb := b.isLt
    rw [byteSum, List.length_cons]
    omega

theorem beBytes_getD {n k : Nat} (v : Nat) (hk : k < n) :
    (beBytes n v).getD k 0 = BitVec.ofNat 8 (v / 256 ^ (n - 1 - k)) := by
  have hrev : k < (leBytes n v).length := by rwa [leBytes_length]
  rw [beBytes, List.getD_eq_getElem?_getD, List.getElem?_reverse hrev, leBytes_length, ← List.getD_eq_getElem?_getD,
    leBytes_getD v (by omega)]

/-! ### The chunks -/

theorem blocks_getElem? {bs k : Nat} {b : List Byte} (hk : k < b.length / bs) :
    (blocks bs b)[k]? = some ((b.drop (k * bs)).take bs) := by
  rw [blocks, List.getElem?_map, List.getElem?_range hk, Option.map_some]

/-- The neighbour of chunk `i` among the chunks of `b` (45_engine.md R247). -/
theorem neighbour_drop_blocks {bs : Nat} (hbs : 1 ≤ bs) (last : Byte) (b : List Byte) (i : Nat) :
    neighbour last ((blocks bs b).drop (i + 1)) =
      if i + 1 < b.length / bs then b.getD ((i + 1) * bs) 0 else last := by
  split
  next hnext =>
    obtain ⟨hi, hget⟩ := List.getElem?_eq_some_iff.mp (blocks_getElem? hnext)
    rw [List.drop_eq_getElem_cons hi, neighbour, hget, List.getD_eq_getElem?_getD, List.getElem?_take_of_lt hbs,
      List.getElem?_drop, Nat.add_zero, ← List.getD_eq_getElem?_getD]
  next hlast =>
    rw [List.drop_eq_nil_of_le (by rw [blocks_length]; omega), neighbour]

/-- Each chunk is shuffled with the seed of the chunks behind it as they were. -/
theorem shuffleChunks_getElem? (last : Byte) (sr : Nat) (cs : List (List Byte)) (i : Nat) :
    (shuffleChunks last sr cs)[i]? =
      cs[i]?.map fun c => shuffle c (chunkSeed (neighbour last (cs.drop (i + 1))) sr) 2 := by
  induction cs generalizing i with
  | nil => rfl
  | cons c cs ih =>
    cases i with
    | zero => rfl
    | succ i => rw [shuffleChunks, List.getElem?_cons_succ, ih, List.getElem?_cons_succ, List.drop_succ_cons]

/-- The chunks behind each chunk are restored first, so the neighbour byte is the one of the shuffling
(45_engine.md R264). -/
theorem unshuffleChunks_shuffleChunks (last : Byte) (sr : Nat) (cs : List (List Byte)) :
    unshuffleChunks last sr (shuffleChunks last sr cs) = cs := by
  induction cs with
  | nil => rfl
  | cons c cs ih => simp only [shuffleChunks, unshuffleChunks, ih, unshuffle_shuffle]

/-- Settles O37: by induction on the chunks, the ones behind the first being restored before it. -/
theorem chunkShufflesInvert : Obligations.ChunkShufflesInvert := fun last sr cs =>
  ⟨unshuffleChunks_shuffleChunks last sr cs, fun _ ds _ => by rw [unshuffleChunks_shuffleChunks]⟩

/-! ### The scrambling of a frame -/

/-- A frame after both shuffles, before the mixer (45_engine.md R246, R247). -/
def shuffledFrame (m : Nat) (key : List Byte) (sr : Nat) (f : List Byte) : List Byte :=
  (shuffleChunks (key.getD 0 0) sr (blocks m (shuffle f (globalSeed key sr) 5))).flatten

theorem scrambleFrame_eq_mix (m : Nat) (key : List Byte) (sr : Nat) (f : List Byte) :
    scrambleFrame m key sr f = mix m (shuffledFrame m key sr f) key := rfl

theorem globalSeed_eq (key : List Byte) (sr : Nat) :
    globalSeed key sr = BitVec.ofNat 64 ((key.map BitVec.toNat).sum + sr) := by
  rw [globalSeed, byteSum_eq_sum]

section
variable {m sr : Nat} {key f : List Byte}

theorem shuffledFrame_length (hwhole : f.length % m = 0) : (shuffledFrame m key sr f).length = f.length := by
  rw [shuffledFrame, flatten_length_of_length (shuffleChunks_mem_length fun _ => blocks_mem_length),
    shuffleChunks_length, blocks_length, shuffle_length]
  exact Nat.div_mul_cancel (Nat.dvd_of_mod_eq_zero hwhole)

theorem blocks_shuffledFrame (hm : 1 ≤ m) : blocks m (shuffledFrame m key sr f) =
    shuffleChunks (key.getD 0 0) sr (blocks m (shuffle f (globalSeed key sr) 5)) :=
  blocks_flatten_of_length hm (shuffleChunks_mem_length fun _ => blocks_mem_length)

/-- A chunk of the shuffled frame (45_engine.md R247). -/
theorem shuffledFrame_chunk (hm : 1 ≤ m) (hwhole : f.length % m = 0) {i : Nat} (hi : i < f.length / m) :
    let g := shuffle f (globalSeed key sr) 5
    ((shuffledFrame m key sr f).drop (i * m)).take m = shuffle ((g.drop (i * m)).take m)
      (chunkSeed (if i + 1 < f.length / m then g.getD ((i + 1) * m) 0 else key.getD 0 0) sr) 2 := by
  intro g
  have hg : g.length = f.length := shuffle_length _ _ _
  have hchunk := blocks_getElem? (bs := m) (b := shuffledFrame m key sr f) (by rwa [shuffledFrame_length hwhole])
  rw [blocks_shuffledFrame hm, shuffleChunks_getElem?, blocks_getElem? (by rwa [hg]), neighbour_drop_blocks hm,
    hg] at hchunk
  exact (Option.some.inj hchunk).symm

/-- A byte of the scrambled frame (45_engine.md R248). -/
theorem scrambleFrame_getD (hwhole : f.length % m = 0) (hkey : key.length = m) {j : Nat} (hj : j < f.length) :
    (scrambleFrame m key sr f).getD j 0 = (shuffledFrame m key sr f).getD j 0 ^^^
      (if j < m then key.getD j 0 else (scrambleFrame m key sr f).getD (j - m) 0) := by
  have hlength := shuffledFrame_length (key := key) (sr := sr) hwhole
  have hmixed := scrambleFrame_length (sr := sr) hwhole hkey
  rw [scrambleFrame_eq_mix] at hmixed ⊢
  conv_lhs => rw [mix_eq_xorBytes (by rwa [hlength]) hkey]
  rw [xorBytes_append_getD (by omega) (by rwa [hlength]), hkey]

/-- Each of the three stages taken back in turn (45_engine.md R255 to R257). -/
theorem unscrambleFrame_scrambleFrame (hm : 1 ≤ m) (hwhole : f.length % m = 0) (hkey : key.length = m) :
    unscrambleFrame m key sr (scrambleFrame m key sr f) = f := by
  simp only [unscrambleFrame]
  rw [scrambleFrame_eq_mix, unmix_mix (by rwa [shuffledFrame_length hwhole]) hkey, blocks_shuffledFrame hm,
    unshuffleChunks_shuffleChunks, flatten_blocks hm (by rwa [shuffle_length]), unshuffle_shuffle]

end

/-! ### The random bytes -/

/-- Byte `k` of the draws of new(TS), little-endian (45_engine.md R242). -/
def randomByte (ts : DWord) (k : Nat) : Byte := (lcg^[k / 4 + 1] ts).extractLsb' (32 + 8 * (k % 4)) 8

theorem randomPrefix_getD (ts : DWord) {k : Nat} (hk : k < 6) : (randomPrefix ts).getD k 0 = randomByte ts k :=
  getRandomBytes_getD ts hk

theorem randomPrefix_eq_map (ts : DWord) : randomPrefix ts = (List.range 6).map (randomByte ts) := by
  refine List.ext_getElem (by simp [randomPrefix_length]) fun k hk _ => ?_
  rw [← List.getD_eq_getElem _ 0 hk, randomPrefix_getD ts (by rwa [randomPrefix_length] at hk)]
  simp

theorem byteSum_randomPrefix (ts : DWord) :
    byteSum (randomPrefix ts) = ((List.range 6).map fun k => (randomByte ts k).toNat).sum := by
  rw [byteSum_eq_sum, randomPrefix_eq_map, List.map_map]
  rfl

theorem byteSum_randomPrefix_le (ts : DWord) : byteSum (randomPrefix ts) ≤ 1530 := by
  have hle := byteSum_le (randomPrefix ts)
  rwa [randomPrefix_length] at hle

/-! ### The framed buffer -/

section
variable {m : Nat} {pre payload : List Byte}

theorem framedBuffer_whole (hm : 1 ≤ m) (hpre : pre.length = 6) : (framedBuffer m pre payload).length % m = 0 := by
  rw [framedBuffer_length m pre payload hpre]
  exact padLen_completes hm _

theorem framedBuffer_take_four : (framedBuffer m pre payload).take 4 = beBytes 4 payload.length := by
  simp only [framedBuffer, List.append_assoc]
  exact List.take_left' (beBytes_length _ _)

theorem framedBuffer_drop_ten (hpre : pre.length = 6) :
    (framedBuffer m pre payload).drop 10 = payload ++ List.replicate (padLen m payload.length) 0x01 := by
  rw [framedBuffer, List.append_assoc]
  exact List.drop_left' (by rw [List.length_append, beBytes_length, hpre])

theorem framedBuffer_payload (hpre : pre.length = 6) :
    ((framedBuffer m pre payload).drop 10).take payload.length = payload := by
  rw [framedBuffer_drop_ten hpre, List.take_left]

/-- The length field (45_engine.md R244). -/
theorem framedBuffer_getD_length {k : Nat} (hk : k < 4) :
    (framedBuffer m pre payload).getD k 0 = BitVec.ofNat 8 (payload.length / 256 ^ (3 - k)) := by
  rw [framedBuffer, List.append_assoc, List.append_assoc, List.getD_append _ _ _ _ (by rwa [beBytes_length]),
    beBytes_getD _ hk]

theorem framedBuffer_getD_random {k : Nat} (hk : k < pre.length) :
    (framedBuffer m pre payload).getD (4 + k) 0 = pre.getD k 0 := by
  rw [framedBuffer, List.append_assoc, List.append_assoc, List.getD_append_right _ _ _ _ (by simp), beBytes_length,
    Nat.add_sub_cancel_left, List.getD_append _ _ _ _ hk]

theorem framedBuffer_getD_ten_add (hpre : pre.length = 6) (k : Nat) : (framedBuffer m pre payload).getD (10 + k) 0 =
    (payload ++ List.replicate (padLen m payload.length) 0x01).getD k 0 := by
  rw [← framedBuffer_drop_ten hpre, List.getD_eq_getElem?_getD, List.getD_eq_getElem?_getD, List.getElem?_drop]

theorem framedBuffer_getD_payload (hpre : pre.length = 6) {k : Nat} (hk : k < payload.length) :
    (framedBuffer m pre payload).getD (10 + k) 0 = payload.getD k 0 := by
  rw [framedBuffer_getD_ten_add hpre, List.getD_append _ _ _ _ hk]

theorem framedBuffer_getD_padding (hpre : pre.length = 6) {k : Nat} (hlo : 10 + payload.length ≤ k)
    (hhi : k < 10 + payload.length + padLen m payload.length) : (framedBuffer m pre payload).getD k 0 = 0x01 := by
  obtain ⟨j, rfl⟩ := Nat.exists_eq_add_of_le hlo
  rw [Nat.add_assoc, framedBuffer_getD_ten_add hpre, List.getD_append_right _ _ _ _ (by omega), Nat.add_sub_cancel_left,
    List.getD_replicate _ (by omega)]

end

/-! ### The token -/

/-- The frame of a token, permuted and mixed: all of it but the two last bytes. -/
def tokenFront (m : Nat) (payload pw : List Byte) (ts : DWord) : List Byte :=
  scrambleFrame m (keystream m pw) (byteSum (randomPrefix ts)) (framedBuffer m (randomPrefix ts) payload)

section
variable {m : Nat} (payload pw : List Byte) (ts : DWord)

/-- The sum of six bytes fits the two bytes of the tail (45_engine.md R249). -/
theorem encryptToken_eq (m : Nat) :
    encryptToken m payload pw ts = tokenFront m payload pw ts ++ beBytes 2 (byteSum (randomPrefix ts)) := by
  have hle := byteSum_randomPrefix_le ts
  rw [encryptToken, Nat.mod_eq_of_lt (by omega), tokenFront]

theorem tokenFront_length (hm : 1 ≤ m) :
    (tokenFront m payload pw ts).length = 10 + payload.length + padLen m payload.length := by
  have hpre := randomPrefix_length ts
  rw [tokenFront, scrambleFrame_length (framedBuffer_whole hm hpre) (keystream_length m pw),
    framedBuffer_length m _ _ hpre]

theorem encryptToken_take (hm : 1 ≤ m) :
    (encryptToken m payload pw ts).take (10 + payload.length + padLen m payload.length) =
      tokenFront m payload pw ts := by
  rw [encryptToken_eq, List.take_left' (tokenFront_length payload pw ts hm)]

/-- The tail of a token (45_engine.md R249). -/
theorem fromBe_encryptToken_drop (hm : 1 ≤ m) :
    fromBe ((encryptToken m payload pw ts).drop (10 + payload.length + padLen m payload.length)) =
      byteSum (randomPrefix ts) := by
  have hle := byteSum_randomPrefix_le ts
  rw [encryptToken_eq, List.drop_left' (tokenFront_length payload pw ts hm), fromBe_beBytes]
  exact Nat.mod_eq_of_lt (by omega)

end

/-- The last two bytes of a sequence as a number, most significant first. -/
theorem fromBe_drop_two {bs : List Byte} {n : Nat} (h : bs.length = n + 2) :
    fromBe (bs.drop n) = (bs.getD n 0).toNat * 256 + (bs.getD (n + 1) 0).toNat := by
  have hn : n < bs.length := by omega
  have hn' : n + 1 < bs.length := by omega
  rw [List.drop_eq_getElem_cons hn, List.drop_eq_getElem_cons hn', List.drop_eq_nil_of_le h.le,
    List.getD_eq_getElem _ _ hn, List.getD_eq_getElem _ _ hn']
  simp only [fromBe, List.reverse_cons, List.reverse_nil, List.nil_append, List.cons_append, fromLe]
  omega

/-- Settles O36: the chunks and bytes of a scrambled frame, then the token as such a frame of the framed buffer with
the sum of its six random bytes behind it. -/
theorem tokenShape : Obligations.TokenShape := by
  constructor
  · intro m sr key f hm hkey hwhole e g
    have hg : g = shuffle f (globalSeed key sr) 5 := by rw [globalSeed_eq]
    refine ⟨unscrambleFrame_scrambleFrame hm hwhole hkey, scrambleFrame_length hwhole hkey,
      shuffledFrame m key sr f, shuffledFrame_length hwhole, fun i hi => ?_, fun j => scrambleFrame_getD hwhole hkey⟩
    rw [hg]
    exact shuffledFrame_chunk hm hwhole hi
  · intro m payload pw ts hm token l n random sr
    have hpre := randomPrefix_length ts
    have hsr : byteSum (randomPrefix ts) = sr := byteSum_randomPrefix ts
    have hlength : token.length = 10 + payload.length + padLen m payload.length + 2 := by
      rw [encryptToken_length hm, tokenLen]
      omega
    refine ⟨hlength, padLen_completes hm l, hsr ▸ byteSum_randomPrefix_le ts, ?_, keystream m pw,
      framedBuffer m (randomPrefix ts) payload, keystream_length m pw, framedBuffer_length m _ _ hpre, ?_,
      fun k hk => ?_, fun k => framedBuffer_getD_length, fun k hk => ?_, fun k => framedBuffer_getD_payload hpre,
      fun k => framedBuffer_getD_padding hpre⟩
    · exact (fromBe_drop_two hlength).symm.trans ((fromBe_encryptToken_drop payload pw ts hm).trans hsr)
    · rw [← hsr]
      exact encryptToken_take payload pw ts hm
    · rw [keystream_getD hk]
      split
      next hempty => rw [List.length_eq_zero_iff.mp hempty, List.getD_nil]
      next => rfl
    · rw [framedBuffer_getD_random (by rwa [hpre])]
      exact randomPrefix_getD ts hk

/-! ### decrypt -/

/-- The working buffer of decrypt after its three stages (45_engine.md R253 to R257). -/
def recoveredFrame (m : Nat) (e pw : List Byte) : List Byte :=
  unscrambleFrame m (keystream m pw) (fromBe (e.drop (e.length - 2))) (e.take (e.length - 2))

/-- The length field of a frame (45_engine.md R258). -/
def lengthField (w : List Byte) : Nat := fromBe (w.take 4)

section
variable {m : Nat} {e : List Byte} (pw : List Byte)

theorem recoveredFrame_length (hwhole : (e.length - 2) % m = 0) : (recoveredFrame m e pw).length = e.length - 2 := by
  have htake : (e.take (e.length - 2)).length = e.length - 2 := by rw [List.length_take]; omega
  rw [recoveredFrame, unscrambleFrame_length (by rwa [htake]) (keystream_length m pw), htake]

/-- Causes (a) and (b) of 60_exceptions.md R284. -/
theorem decryptToken_of_early (h : e.length < 6 ∨ (e.length - 2) % m ≠ 0) :
    decryptToken m e pw = .tooShort ∨ decryptToken m e pw = .notMultiple := by
  unfold decryptToken
  by_cases hshort : e.length < 6
  · exact .inl (if_pos hshort)
  · exact .inr ((if_neg hshort).trans (if_pos (h.resolve_left hshort)))

/-- What decrypt answers where its early checks pass. -/
theorem decryptToken_of_whole (hlong : 6 ≤ e.length) (hwhole : (e.length - 2) % m = 0) :
    decryptToken m e pw =
      if e.length - 2 < lengthField (recoveredFrame m e pw) + 10 then .badLength
      else .payload (((recoveredFrame m e pw).drop 10).take (lengthField (recoveredFrame m e pw))) := by
  unfold decryptToken
  exact (if_neg hlong.not_gt).trans (if_neg (not_not.mpr hwhole))

end

section
variable {m : Nat} (payload pw : List Byte) (ts : DWord)

theorem encryptToken_length_sub_two (hm : 1 ≤ m) :
    (encryptToken m payload pw ts).length - 2 = 10 + payload.length + padLen m payload.length := by
  rw [encryptToken_length hm, tokenLen]
  omega

/-- The token's last two bytes carry the seed offset, so decrypt recovers the very frame that encrypt scrambled. -/
theorem recoveredFrame_encryptToken (hm : 1 ≤ m) :
    recoveredFrame m (encryptToken m payload pw ts) pw = framedBuffer m (randomPrefix ts) payload := by
  rw [recoveredFrame, encryptToken_length_sub_two payload pw ts hm, fromBe_encryptToken_drop payload pw ts hm,
    encryptToken_take payload pw ts hm, tokenFront]
  exact unscrambleFrame_scrambleFrame hm (framedBuffer_whole hm (randomPrefix_length ts)) (keystream_length m pw)

theorem lengthField_framedBuffer {pre : List Byte} (hlt : payload.length < 2 ^ 32) :
    lengthField (framedBuffer m pre payload) = payload.length := by
  rw [lengthField, framedBuffer_take_four, fromBe_beBytes]
  exact Nat.mod_eq_of_lt hlt

theorem decryptToken_encryptToken (hm : 1 ≤ m) (hlt : payload.length < 2 ^ 32) :
    decryptToken m (encryptToken m payload pw ts) pw = .payload payload := by
  have hn := encryptToken_length_sub_two payload pw ts hm
  have hwhole : ((encryptToken m payload pw ts).length - 2) % m = 0 := by
    rw [hn]
    exact padLen_completes hm payload.length
  rw [decryptToken_of_whole pw (by omega) hwhole, recoveredFrame_encryptToken payload pw ts hm,
    lengthField_framedBuffer payload hlt, if_neg (by omega), framedBuffer_payload (randomPrefix_length ts)]

end

/-- Settles O38: decrypt recovers the framed buffer, whose length field and payload it reads. -/
theorem decryptInvertsEncrypt : Obligations.DecryptInvertsEncrypt := fun _ payload pw ts hm hlt =>
  decryptToken_encryptToken payload pw ts hm hlt

end Sys2Proof.Machine
end

section
/-! ENCRYPT and DECRYPT (45_engine.md R251, R260): what each completes with, its errors, and that the one undoes the
other. -/

namespace Sys2Proof.Machine

section
variable {s : State}

/-! ### The checks -/

/-- The two checks that come first in both commands (60_exceptions.md R286 (b) and (c)). -/
theorem framedChecks_iff : (passwordFits s.cfg s.op.regs && regionFits s.cfg s.op.regs) = true ↔
    s.op.regs.pwLen.toNat ≤ s.cfg.pwMax ∧ s.op.regs.addr.toNat + s.op.regs.len.toNat ≤ s.cfg.bufSize := by
  rw [Bool.and_eq_true_iff, passwordFits_iff, regionFits_iff]

theorem tokenFits_iff {p : Params} {r : Regs} :
    tokenFits p r = true ↔ r.addr.toNat + tokenLen r.matrixSize.toNat r.len.toNat ≤ p.bufSize := by
  simp [tokenFits]

theorem framedChecks_false
    (h : s.cfg.pwMax < s.op.regs.pwLen.toNat ∨ s.cfg.bufSize < s.op.regs.addr.toNat + s.op.regs.len.toNat) :
    (passwordFits s.cfg s.op.regs && regionFits s.cfg s.op.regs) = false := by
  refine Bool.eq_false_iff.mpr fun hfit => ?_
  obtain ⟨hpw, hregion⟩ := framedChecks_iff.mp hfit
  omega

/-! ### ENCRYPT -/

theorem exec_encrypt_of_not_fits
    (h : s.cfg.pwMax < s.op.regs.pwLen.toNat ∨ s.cfg.bufSize < s.op.regs.addr.toNat + s.op.regs.len.toNat) :
    exec .encrypt s = .next ({ s with outLen := 0 }.finished 0x11) := by
  have hno := framedChecks_false h
  obtain ⟨-, hexec⟩ | ⟨hfit, -⟩ | ⟨hfit, -⟩ := execEncrypt_cases s
  · exact hexec
  · rw [hno] at hfit; cases hfit
  · rw [hno] at hfit; cases hfit

theorem exec_encrypt_of_token_not_fits (hpw : s.op.regs.pwLen.toNat ≤ s.cfg.pwMax)
    (hregion : s.op.regs.addr.toNat + s.op.regs.len.toNat ≤ s.cfg.bufSize)
    (htoken : s.cfg.bufSize < s.op.regs.addr.toNat + tokenLen s.op.regs.matrixSize.toNat s.op.regs.len.toNat) :
    exec .encrypt s = .next ({ s with outLen := 0 }.finished 0x01) := by
  obtain ⟨hno, -⟩ | ⟨-, -, hexec⟩ | ⟨-, hfit, -⟩ := execEncrypt_cases s
  · rw [framedChecks_iff.mpr ⟨hpw, hregion⟩] at hno; cases hno
  · exact hexec
  · exact absurd (tokenFits_iff.mp hfit) htoken.not_ge

/-- ENCRYPT where it completes without error: the state with the stored token and its length (45_engine.md R251). -/
theorem exec_encrypt_of_fits (hpw : s.op.regs.pwLen.toNat ≤ s.cfg.pwMax)
    (htoken : s.op.regs.addr.toNat + tokenLen s.op.regs.matrixSize.toNat s.op.regs.len.toNat ≤ s.cfg.bufSize) :
    exec .encrypt s = .next ({ s.store .buf s.op.regs.addr.toNat s.token with
      outLen := BitVec.ofNat 32 (tokenLen s.msize s.op.regs.len.toNat) }.complete .ok) := by
  have hregion : s.op.regs.addr.toNat + s.op.regs.len.toNat ≤ s.cfg.bufSize := by
    rw [tokenLen] at htoken
    omega
  obtain ⟨hno, -⟩ | ⟨-, hno, -⟩ | ⟨-, -, hexec⟩ := execEncrypt_cases s
  · rw [framedChecks_iff.mpr ⟨hpw, hregion⟩] at hno; cases hno
  · rw [tokenFits_iff.mpr htoken] at hno; cases hno
  · exact hexec

theorem State.token_length (hm : 1 ≤ s.msize) : s.token.length = tokenLen s.msize s.op.regs.len.toNat := by
  rw [State.token, encryptToken_length hm, State.region_length]

/-- The length of anything in BUF fits OUT_LEN (00_scope.md R8). -/
theorem ofNat_toNat_of_le_bufSize {p : Params} (hp : p.legal = true) {n : Nat} (hn : n ≤ p.bufSize) :
    (BitVec.ofNat 32 n).toNat = n := by
  simp only [Params.legal, Bool.and_eq_true, decide_eq_true_eq] at hp
  rw [BitVec.toNat_ofNat]
  exact Nat.mod_eq_of_lt (by omega)

end

/-- Settles O40: the length that the statement writes out is the token's. -/
theorem encryptErrors : Obligations.EncryptErrors := fun _ =>
  ⟨exec_encrypt_of_not_fits, fun hpw hregion htoken =>
    exec_encrypt_of_token_not_fits hpw hregion (by rw [tokenLen, padLen]; omega)⟩

/-- Settles O39: the token is stored at ADDR, and the frame of the commands keeps every other byte. -/
theorem encryptResult : Obligations.EncryptResult := by
  intro s hp hm hpw l size hfits
  have hexec := exec_encrypt_of_fits hpw hfits
  have hstored := State.bytes_store_same s .buf s.op.regs.addr.toNat s.token
  rw [State.token_length hm] at hstored
  exact ⟨_, _, ofNat_toNat_of_le_bufSize hp (Nat.le_of_add_left_le hfits), hexec, hstored, fun a hout =>
    (exec_frame hexec).byte .buf a fun hin => hout hin.2⟩

/-! ### DECRYPT -/

/-- Storing a payload touches BUF and the count of free values alone. -/
theorem State.storePayload_eq (s : State) (p : List Byte) : s.storePayload p =
    { s with
      buf := (s.storePayload p).buf
      draws := (s.storePayload p).draws } := by
  simp only [State.storePayload, State.scramble, State.store, State.setMem]

/-- The payload is not among the bytes that become free. -/
theorem State.bytes_storePayload (s : State) (p : List Byte) :
    (s.storePayload p).bytes .buf s.op.regs.addr.toNat p.length = p := by
  refine Eq.trans (List.map_congr_left fun k hk => ?_) (State.bytes_store_same s .buf s.op.regs.addr.toNat p)
  have hlt := List.mem_range.mp hk
  exact State.byte_scramble_of_outside _ _ _ _ _ _ (by omega)

theorem State.bytes_take (s : State) (id : MemId) (a : Nat) {n k : Nat} (hk : k ≤ n) :
    (s.bytes id a n).take k = s.bytes id a k := by
  rw [State.bytes, ← List.map_take, List.take_range, Nat.min_eq_left hk, State.bytes]

section
variable {s : State}

theorem exec_decrypt_of_not_fits
    (h : s.cfg.pwMax < s.op.regs.pwLen.toNat ∨ s.cfg.bufSize < s.op.regs.addr.toNat + s.op.regs.len.toNat) :
    exec .decrypt s = .next ({ s with outLen := 0 }.finished 0x11) := by
  obtain ⟨-, hexec⟩ | ⟨hfit, -⟩ := execDecrypt_cases s
  · exact hexec
  · rw [framedChecks_false h] at hfit; cases hfit

section
variable (hpw : s.op.regs.pwLen.toNat ≤ s.cfg.pwMax)
  (hregion : s.op.regs.addr.toNat + s.op.regs.len.toNat ≤ s.cfg.bufSize)
include hpw hregion

theorem exec_decrypt_of_early
    (h : s.op.regs.len.toNat < 6 ∨ (s.op.regs.len.toNat - 2) % s.op.regs.matrixSize.toNat ≠ 0) :
    exec .decrypt s = .next ({ s with outLen := 0 }.finished 0x02) := by
  rw [← State.region_length] at h
  have hearly := decryptToken_of_early s.password h
  obtain ⟨hno, -⟩ | ⟨-, ⟨-, hexec⟩ | ⟨hlate, -⟩ | ⟨p, hlate, -⟩⟩ := execDecrypt_cases s
  · rw [framedChecks_iff.mpr ⟨hpw, hregion⟩] at hno; cases hno
  · exact hexec
  · obtain hno | hno := hearly <;> cases hlate.symm.trans hno
  · obtain hno | hno := hearly <;> cases hlate.symm.trans hno

/-- DECRYPT where the length field exceeds the buffer: the token region becomes free bytes (45_engine.md R260). -/
theorem exec_decrypt_of_badLength (h : decryptToken s.msize s.region s.password = .badLength) :
    exec .decrypt s = .next
      ((s.scramble .buf s.op.regs.addr.toNat s.op.regs.len.toNat).raiseFramed .invalidTokenLength) := by
  obtain ⟨hno, -⟩ | ⟨-, ⟨hno | hno, -⟩ | ⟨-, hexec⟩ | ⟨p, hno, -⟩⟩ := execDecrypt_cases s
  · rw [framedChecks_iff.mpr ⟨hpw, hregion⟩] at hno; cases hno
  · cases hno.symm.trans h
  · cases hno.symm.trans h
  · exact hexec
  · cases hno.symm.trans h

/-- DECRYPT where it completes without error: the state with the stored payload and its length (45_engine.md R260). -/
theorem exec_decrypt_of_payload {p : List Byte} (h : decryptToken s.msize s.region s.password = .payload p) :
    exec .decrypt s = .next ({ s with
      buf := (s.storePayload p).buf
      outLen := BitVec.ofNat 32 p.length
      draws := (s.storePayload p).draws }.finished 0x00) := by
  obtain ⟨hno, -⟩ | ⟨-, ⟨hno | hno, -⟩ | ⟨hno, -⟩ | ⟨q, hq, hexec⟩⟩ := execDecrypt_cases s
  · rw [framedChecks_iff.mpr ⟨hpw, hregion⟩] at hno; cases hno
  · cases hno.symm.trans h
  · cases hno.symm.trans h
  · cases hno.symm.trans h
  · cases hq.symm.trans h
    rw [State.storePayload_eq] at hexec
    exact hexec

end

/-- What DECRYPT recovers from the region, with the sum that the last two bytes hold (45_engine.md R253). -/
theorem recoveredFrame_region (hlong : 2 ≤ s.op.regs.len.toNat) :
    let a := s.op.regs.addr.toNat
    let n := s.op.regs.len.toNat - 2
    recoveredFrame s.msize s.region s.password = unscrambleFrame s.msize (keystream s.msize s.password)
      ((s.byte .buf (a + n)).toNat * 256 + (s.byte .buf (a + n + 1)).toNat) (s.bytes .buf a n) := by
  intro a n
  have hlength : s.region.length = n + 2 := by rw [State.region_length]; omega
  rw [recoveredFrame, hlength, Nat.add_sub_cancel, fromBe_drop_two hlength, State.region,
    State.bytes_getD s .buf _ (by omega), State.bytes_getD s .buf _ (by omega), State.bytes_take s .buf _ (by omega)]
  rfl

/-- What DECRYPT answers where its early checks pass (45_engine.md R258, R259). -/
theorem decryptToken_region (hlong : 6 ≤ s.op.regs.len.toNat) (hwhole : (s.op.regs.len.toNat - 2) % s.msize = 0) :
    let w := recoveredFrame s.msize s.region s.password
    decryptToken s.msize s.region s.password =
      if s.op.regs.len.toNat - 2 < lengthField w + 10 then .badLength
      else .payload ((w.drop 10).take (lengthField w)) := by
  rw [← State.region_length] at hlong hwhole ⊢
  exact decryptToken_of_whole s.password hlong hwhole

end

/-- Settles O42: the checks in their order. -/
theorem decryptEarlyErrors : Obligations.DecryptEarlyErrors := fun _ =>
  ⟨exec_decrypt_of_not_fits, exec_decrypt_of_early⟩

/-- Settles O43: only the token region becomes free bytes. -/
theorem decryptLateError : Obligations.DecryptLateError := by
  intro s hpw hregion hlong hwhole a n sr w hlate
  have hbad : decryptToken s.msize s.region s.password = .badLength := by
    rw [decryptToken_region hlong hwhole, recoveredFrame_region (by omega)]
    exact if_pos hlate
  have hexec := exec_decrypt_of_badLength hpw hregion hbad
  exact ⟨_, _, hexec, fun x hout => (exec_frame hexec).byte .buf x fun hin => hout hin.2⟩

/-- Settles O41: the recovered payload has the length of the length field, and it is stored at ADDR. -/
theorem decryptResult : Obligations.DecryptResult := by
  intro s hpw hregion hlong hwhole a n sr w l hfits
  have hw : recoveredFrame s.msize s.region s.password = w := recoveredFrame_region (by omega)
  have hpayload : decryptToken s.msize s.region s.password = .payload ((w.drop 10).take l) := by
    rw [decryptToken_region hlong hwhole, hw]
    exact if_neg hfits.not_gt
  have hlength : ((w.drop 10).take l).length = l := by
    have hframe := recoveredFrame_length s.password (e := s.region) (m := s.msize) (by rwa [State.region_length])
    rw [hw, State.region_length] at hframe
    rw [List.length_take, List.length_drop, hframe]
    omega
  have hexec := exec_decrypt_of_payload hpw hregion hpayload
  have hstored := State.bytes_storePayload s ((w.drop 10).take l)
  rw [hlength] at hexec hstored
  refine ⟨_, _, _, ?_, hexec, hstored, fun x hout => (exec_frame hexec).byte .buf x fun hin => hout hin.2⟩
  have hlen := s.op.regs.len.isLt
  rw [BitVec.toNat_ofNat]
  exact Nat.mod_eq_of_lt (by omega)

/-! ### DECRYPT after ENCRYPT -/

/-- After an ENCRYPT that completed without error, the snapshot again but with LEN the token's length, as OUT_LEN
gives it. -/
def State.decryptNext (s : State) : State :=
  let n : Word := BitVec.ofNat 32 (tokenLen s.msize s.op.regs.len.toNat)
  { { s.store .buf s.op.regs.addr.toNat s.token with outLen := n }.complete .ok with
    op := { s.op with regs := { s.op.regs with len := n } } }

section
variable {s : State}

theorem State.decryptNext_region (hm : 1 ≤ s.msize)
    (hlen : (BitVec.ofNat 32 (tokenLen s.msize s.op.regs.len.toNat)).toNat = tokenLen s.msize s.op.regs.len.toNat) :
    s.decryptNext.region = s.token := by
  have hstored := State.bytes_store_same s .buf s.op.regs.addr.toNat s.token
  rw [State.token_length hm, ← hlen] at hstored
  exact hstored

theorem State.decryptNext_password : s.decryptNext.password = s.password := rfl

end

/-- Settles O44: DECRYPT reads the token and the password of ENCRYPT, so the round trip of the functions gives it the
payload to store. -/
theorem decryptAfterEncryptRestoresPayload : Obligations.DecryptAfterEncryptRestoresPayload := by
  intro s hp hm hpw hfits
  have htoken : s.op.regs.addr.toNat + tokenLen s.msize s.op.regs.len.toNat ≤ s.cfg.bufSize := by
    rw [tokenLen, padLen, State.msize]
    omega
  have hlen := ofNat_toNat_of_le_bufSize hp (Nat.le_of_add_left_le htoken)
  have hpayload : decryptToken s.decryptNext.msize s.decryptNext.region s.decryptNext.password = .payload s.region := by
    rw [State.decryptNext_region hm hlen, State.decryptNext_password]
    exact decryptToken_encryptToken _ _ _ hm (by rw [State.region_length]; exact s.op.regs.len.isLt)
  have hregion : s.decryptNext.op.regs.addr.toNat + s.decryptNext.op.regs.len.toNat ≤ s.decryptNext.cfg.bufSize := by
    rw [← hlen] at htoken
    exact htoken
  have hexec := exec_decrypt_of_payload (s := s.decryptNext) hpw hregion hpayload
  have hstored := s.decryptNext.bytes_storePayload s.region
  rw [State.region_length] at hstored
  rw [State.region_length, BitVec.ofNat_toNat, BitVec.setWidth_eq] at hexec
  refine ⟨_, _, exec_encrypt_of_fits hpw htoken, hexec, rfl, rfl, fun k hk => ?_⟩
  refine (State.bytes_getD _ .buf _ hk).symm.trans ((congrArg (List.getD · k 0) hstored).trans ?_)
  exact State.bytes_getD s .buf _ hk

end Sys2Proof.Machine
end

section
/-! Exceptions (60_exceptions.md): every transition has a next state (R280), and the errors of the region commands in
their priority (R286, R287). -/

namespace Sys2Proof.Machine

/-! ### Progress -/

/-- Settles O7: a transition is a command's completion, which answers next, the completion of a word that is no command, or
a turn of the host port. -/
theorem noStateIsStuck : Obligations.NoStateIsStuck := by
  intro s
  obtain ⟨_, i, -, -, hexec⟩ | ⟨-, -, -, -, hbad⟩ | ⟨-, hturn⟩ := step_cases s
  · obtain ⟨t, ht⟩ := exec_next i s
    exact ⟨t, hexec.trans ht⟩
  · exact ⟨_, hbad⟩
  · exact ⟨_, hturn⟩

/-! ### The errors of the region commands -/

section
variable {s : State}

theorem permuteRegion_of_not_fits (f : List Byte → DWord → Nat → List Byte)
    (h : s.cfg.bufSize < s.op.regs.addr.toNat + s.op.regs.len.toNat) : permuteRegion f s = s.finished 0x11 := by
  obtain ⟨-, hraise⟩ | ⟨hfits, -⟩ | ⟨hfits, -⟩ := permuteRegion_cases f s
  · exact hraise
  · exact absurd (regionFits_iff.mp hfits) h.not_ge
  · exact absurd (regionFits_iff.mp hfits) h.not_ge

theorem permuteRegion_of_step_zero (f : List Byte → DWord → Nat → List Byte)
    (hfits : s.op.regs.addr.toNat + s.op.regs.len.toNat ≤ s.cfg.bufSize) (hzero : s.op.regs.step = 0) :
    permuteRegion f s = s.finished 0x12 := by
  obtain ⟨hno, -⟩ | ⟨-, -, hraise⟩ | ⟨-, hstep, -⟩ := permuteRegion_cases f s
  · rw [regionFits_iff.mpr hfits] at hno
    cases hno
  · exact hraise
  · exact absurd hzero hstep

theorem mixRegion_of_not_fits (f : Nat → List Byte → List Byte → List Byte)
    (h : s.cfg.bufSize < s.op.regs.addr.toNat + s.op.regs.len.toNat) : mixRegion f s = s.finished 0x11 := by
  obtain ⟨-, hraise⟩ | ⟨hfits, -⟩ | ⟨hfits, -⟩ := mixRegion_cases f s
  · exact hraise
  · exact absurd (regionFits_iff.mp hfits) h.not_ge
  · exact absurd (regionFits_iff.mp hfits) h.not_ge

theorem mixRegion_of_not_whole (f : Nat → List Byte → List Byte → List Byte)
    (hfits : s.op.regs.addr.toNat + s.op.regs.len.toNat ≤ s.cfg.bufSize) (hrest : s.op.regs.len.toNat % s.msize ≠ 0) :
    mixRegion f s = s.finished 0x02 := by
  obtain ⟨hno, -⟩ | ⟨-, -, hraise⟩ | ⟨-, hwhole, -⟩ := mixRegion_cases f s
  · rw [regionFits_iff.mpr hfits] at hno
    cases hno
  · exact hraise
  · exact absurd hwhole hrest

end

/-- Settles O35: SHUFFLE and UNSHUFFLE are one command in their checks, and so are MIX and UNMIX. -/
theorem regionCommandErrors : Obligations.RegionCommandErrors := by
  refine fun s => ⟨fun hover => ?_, fun hfits hzero => ?_, fun hfits hrest => ?_⟩
  · have hperm f := permuteRegion_of_not_fits f hover
    have hmix f := mixRegion_of_not_fits f hover
    exact ⟨congrArg _ (hperm shuffle), congrArg _ (hperm unshuffle), congrArg _ (hmix mix), congrArg _ (hmix unmix)⟩
  · have hperm f := permuteRegion_of_step_zero f hfits hzero
    exact ⟨congrArg _ (hperm shuffle), congrArg _ (hperm unshuffle)⟩
  · have hmix f := mixRegion_of_not_whole f hfits hrest
    exact ⟨congrArg _ (hmix mix), congrArg _ (hmix unmix)⟩

end Sys2Proof.Machine
end

section
/-! The whole lifecycle of a command (40_control.md R144, R145): the transitions that wait for it, its completion, and
the run of both; and the power-on reset (70_reset_and_hazards.md R310 (a)). -/

namespace Sys2Proof.Machine

/-- A run whose first transition is known goes on from that transition's state. -/
theorem run_succ_of_step {s t : State} (h : step s = .next t) (k : Nat) :
    Host.Core.run Sys2Proof.core (k + 1) s = Host.Core.run Sys2Proof.core k t := by
  have hcore : Sys2Proof.core.step s = .next t := h
  simp only [Host.Core.run, hcore]

section
variable {s : State} (hb : s.busy = true)
include hb

/-- The due word, a command or not, completes in one transition (40_control.md R145, 30_encoding.md R113). -/
theorem step_completes_of_due (hleft : s.left = 0) :
    ∃ t, step s = .next t ∧ t.busy = false ∧ t.done = true ∧ t.cmd = s.cmd := by
  by_cases hword : ∃ i, s.cmd = encode i
  · obtain ⟨i, hi⟩ := hword
    obtain ⟨t, ht, hbusy, hdone, -, hcmd, -⟩ := everyCommandCompletes i s
    exact ⟨t, (step_of_decode_ok hb hleft (decode_eq_ok_iff.mpr hi)).trans ht, hbusy, hdone, hcmd⟩
  · exact ⟨_, step_of_ne_encode hb hleft (not_exists.mp hword), rfl, rfl, rfl⟩

/-- A transition that neither completes the command in progress nor resets it consumes one host event and one of the
transitions left. -/
theorem step_waits_of_left {n : Nat} (hleft : s.left = n + 1) (he : ∀ e ∈ s.inbox.take 1, isResetEvent e = false) :
    ∃ t, step s = .next t ∧ t.busy = true ∧ t.left = n ∧ t.inbox = s.inbox.tail ∧ t.cmd = s.cmd := by
  have hfetch : fetch s = none := fetch_of_left_ne_zero (by omega)
  have htick : s.left - 1 = n := by omega
  cases hinbox : s.inbox with
  | nil =>
    have hturn : hostTurn s = s.tick [] := by simp only [hostTurn, hinbox]
    exact ⟨_, (step_of_fetch_none hfetch).trans (congrArg _ hturn), hb, htick, rfl, rfl⟩
  | cons e rest =>
    have hsame := hostEvent_sameButFlags_of_busy (s := s.tick rest) hb (he e (by simp [hinbox]))
    refine ⟨_, step_of_event hfetch hinbox, ?_⟩
    rw [hsame]
    exact ⟨hb, htick, rfl, rfl⟩

end

/-- By induction on the transitions left: each but the last waits, and the last completes the word. -/
theorem run_completes_of_busy (n : Nat) {s : State} (hb : s.busy = true) (hleft : s.left = n)
    (he : ∀ e ∈ s.inbox.take n, isResetEvent e = false) :
    ∃ t, Host.Core.run Sys2Proof.core (n + 1) s = .next t ∧ t.busy = false ∧ t.done = true ∧ t.cmd = s.cmd := by
  induction n generalizing s with
  | zero =>
    obtain ⟨t, hstep, hcompleted⟩ := step_completes_of_due hb hleft
    exact ⟨t, run_succ_of_step hstep 0, hcompleted⟩
  | succ n ih =>
    have hnow : ∀ e ∈ s.inbox.take 1, isResetEvent e = false := fun e h =>
      he e (List.take_subset_take_left s.inbox (Nat.le_add_left 1 n) h)
    obtain ⟨u, hstep, hbusy, hn, hinbox, hcmd⟩ := step_waits_of_left hb hleft hnow
    have hlater : ∀ e ∈ u.inbox.take n, isResetEvent e = false := fun e h => by
      rw [hinbox, ← List.drop_one, List.take_drop, Nat.add_comm] at h
      exact he e (List.mem_of_mem_drop h)
    rw [run_succ_of_step hstep, ← hcmd]
    exact ih hbusy hn hlater

/-- Settles O8: the run that waits and completes, at the state's own number of transitions left. -/
theorem commandInProgressCompletes : Obligations.CommandInProgressCompletes :=
  fun s hb he => run_completes_of_busy s.left hb rfl he

/-- Settles O57: the event is the transition, and a reset keeps nothing of the countdown that the turn has begun. -/
theorem powerOnReset : Obligations.PowerOnReset := by
  intro s rest hfetch hinbox
  calc step s = .next (s.tick rest).powerOn := step_of_event hfetch hinbox
    _ = .next { State.resetOf s.cfg with inbox := rest, draws := s.draws, epoch := s.epoch + 1 } := rfl

end Sys2Proof.Machine
end
